-- ==== Sys2Proof/Word.lean ====
section
/-! DEFINITION. The widths of the tvh-pulsar CFU: a byte is 8 bits (R5 of 00_scope.md), a checksum, a message id
and a parameter code have 16, an address, a channel mask and an archive sample have 32. -/

namespace Sys2Proof

/-- A byte (R5). -/
abbrev Byte := BitVec 8

/-- A 16-bit value: running checksum (R14), message id (R12), parameter code (R214). -/
abbrev Half := BitVec 16

/-- A 32-bit value: device address (R11), channel mask (R77), channel id and sample pattern (R76). -/
abbrev Word := BitVec 32

end Sys2Proof
end

