-- ==== Sys2Proof/Config.lean ====
section
/-! DEFINITION. What is fixed for a unit (R4 of 00_scope.md), the parameters the spec leaves OPEN, and the free
values: `opaque` constants with no body, of which nothing can be computed or proved. -/

namespace Sys2Proof

/-- The nine names of the Protocol Error enumeration (R213 of 43_function_codes.md). -/
inductive ProtoError where
  | unknown | illegalFunction | invalidBitmask | invalidLength | missingParameter | illegalAccess
  | invalidParameterValue | missingArchive | tooLongPeriod
deriving DecidableEq, Repr, Inhabited

/-- What the line does next for a blocked `RxRead` (R49, R59 of 20_memory.md). DESIGN CHOICE (log 8). -/
inductive RxEvent where
  /-- a byte arrives after the unit has waited `gap` units of time for it -/
  | arrive (gap : Nat) (b : Byte)
  /-- nothing arrives before the deadline -/
  | silence
  /-- after `gap` units of time the read fails, for a reason other than the deadline -/
  | fail (gap : Nat) (e : Nat)
deriving DecidableEq, Repr, Inhabited

/-- How a `TxWrite` or `TxFlush` ends (R46, R47 of 20_memory.md). -/
inductive TxOutcome where
  | done
  | timedOut
  | failed (e : Nat)
deriving DecidableEq, Repr, Inhabited

/-- The transport's answer to one `TxWrite` or `TxFlush`. The numbers are what the spec leaves to the
environment (U6, U7, U11 of 93_implementation_defined.md). DESIGN CHOICE (log 10). -/
structure TxAnswer where
  outcome : TxOutcome
  /-- time it takes -/
  took : Nat
  /-- of the bytes of a write that fails, how many got into the output buffer -/
  accepted : Nat
  /-- how many buffered bytes reach the line now (a flush that succeeds sends all of them) -/
  visible : Nat
  /-- after a failure, how many of the bytes still buffered stay buffered -/
  kept : Nat
deriving DecidableEq, Repr, Inhabited

/-- The two frame buffers (R40 of 20_memory.md). -/
inductive Space where
  | tx | rx
deriving DecidableEq, Repr

/-- The OPEN parameters of R4: `MAX_SKIPS`, `TIMEOUT`, `ERR_TABLE`, and those of R79 of 30_encoding.md.
They never change (log 13). -/
structure Params where
  /-- `MAX_SKIPS`, `none` when no bound is given (R165) -/
  maxSkips : Option Nat
  /-- `TIMEOUT`, in units of the transport's time (R248) -/
  timeout : Nat
  /-- `ERR_TABLE` as the list of the names of the codes 0, 1, 2, ...; a code past its end is `unknown` (log 25) -/
  errTable : List ProtoError
  discReq : List Byte
  discRespLen : Nat
  discAddrOff : Nat
  modelFn : Byte
  modelPayload : List Byte
  modelRespLen : Nat
  modelVerify : Bool
deriving DecidableEq, Repr

namespace Config

/-- `CRC_INIT` (R4). -/
abbrev crcInit : Half := 0xFFFF#16
/-- `CRC_POLY` (R4). -/
abbrev crcPoly : Half := 0xA001#16
/-- `HDR_LEN` (R4). -/
abbrev hdrLen : Nat := 6
/-- `OVERHEAD` (R4). -/
abbrev overhead : Nat := 10
/-- `MIN_RX_FRAME` (R4; 90_conflicts.md C1). -/
abbrev minRxFrame : Nat := 11
/-- `MAX_PAYLOAD` (R4). -/
abbrev maxPayload : Nat := 245
/-- Number of bytes of TXBUF and of RXBUF (R15, R16). -/
abbrev bufSize : Nat := 255
/-- `FN_ERROR` (R4). -/
abbrev fnError : Byte := 0x00#8
/-- `MAX_CHANNEL` (R4). -/
abbrev maxChannel : Nat := 32
/-- `TS_LEN` (R4). -/
abbrev tsLen : Nat := 6
/-- `ARC_MIN` (R4). -/
abbrev arcMin : Nat := 10
/-- The value part of the parameter write payload (R78). -/
abbrev prmValueLen : Nat := 8
/-- `DISC_REQ_LEN` (R4). -/
abbrev discReqLen : Nat := 11
/-- `MID_RESET` (R4). -/
abbrev midReset : Half := 0x0000#16

/-- The default `ERR_TABLE` of R213: the nine names in list order, every other byte `unknown`. -/
def defaultErrTable : List ProtoError :=
  [.unknown, .illegalFunction, .invalidBitmask, .invalidLength, .missingParameter, .illegalAccess,
   .invalidParameterValue, .missingArchive, .tooLongPeriod]

/-- FREE VALUE (log 8): what the line does once the listed events are used up. -/
opaque lineEvent : Nat → RxEvent
/-- FREE VALUE (log 10): how the transport answers once the listed answers are used up. -/
opaque txAnswer : Nat → TxAnswer
/-- FREE VALUE (log 14): what a buffer byte that nothing has written reads as (U10). -/
opaque bufferByte : Space → Nat → Byte
/-- FREE VALUE (log 15): a byte no rule gives a value. -/
opaque freeByte : Nat → Byte
/-- FREE VALUE (log 13): `TIMEOUT`. -/
opaque timeout : Nat
/-- FREE VALUE (log 13): `DISC_REQ`. -/
opaque discReq : Vector Byte 11
/-- FREE VALUE (log 13): `DISC_ADDR_OFF`, such that the address ends inside a 255-byte buffer. -/
opaque discAddrOff : Fin 252
/-- FREE VALUE (log 13): how many bytes of the discovery response follow the address. -/
opaque discRespTail : Nat
/-- FREE VALUE (log 13): `MODEL_FN`. -/
opaque modelFn : Byte
/-- FREE VALUE (log 13): the bytes of `MODEL_PAYLOAD`, cut to 245. -/
opaque modelPayload : List Byte
/-- FREE VALUE (log 13): how many bytes `MODEL_RESP_LEN` is above its least value 4. -/
opaque modelRespExtra : Fin 252

/-- The parameters at reset: the defaults the spec gives, the rest free within R79 (log 13). -/
def params : Params where
  maxSkips := none
  timeout := timeout
  errTable := defaultErrTable
  discReq := discReq.toList
  discRespLen := min bufSize (discAddrOff.val + 4 + discRespTail)
  discAddrOff := discAddrOff.val
  modelFn := modelFn
  modelPayload := modelPayload.take maxPayload
  modelRespLen := 4 + modelRespExtra.val
  modelVerify := false

end Config

/-- The constraints of R79 (and U4): a `Params` outside them is not an instance of this hardware. The bounds by
`bufSize` follow from the size of RXBUF (R16). -/
def Params.ok (p : Params) : Bool :=
  decide (p.discReq.length = Config.discReqLen) &&
  decide (p.discAddrOff + 4 ≤ p.discRespLen) && decide (p.discRespLen ≤ Config.bufSize) &&
  decide (p.modelPayload.length ≤ Config.maxPayload) &&
  decide (4 ≤ p.modelRespLen) && decide (p.modelRespLen ≤ Config.bufSize)

end Sys2Proof
end

