-- ==== Sys2Proof/Syntax.lean ====
section
/-! DEFINITION. The instructions: one constructor for each row of spec/opcode_table.json, the 21 host operations
(R85 of 30_encoding.md) with the operands they are given by value (R84), and the 12 wire frames (R80). -/

namespace Sys2Proof

/-- The two instances of the checksum engine (R14 of 10_state.md), bit 5 of a command code (R84). -/
inductive Engine where
  | tx | rx
deriving DecidableEq, Repr

/-- Which argument an `ARG_INVALID` is about (R231 of 60_exceptions.md, R120 to R129 of 41_codec.md). -/
inductive ArgFault where
  | year | field | payloadLength | emptyChannelSet | channelZero | channelAbove | valueLength
  /-- an argument of the logical method whose payload is built, "out-of-range settings" (R231 class (g)) -/
  | settings
deriving DecidableEq, Repr

/-- The six numbers of a device timestamp (R120, R121). -/
structure Timestamp where
  year : Nat
  month : Nat
  day : Nat
  hour : Nat
  minute : Nat
  second : Nat
deriving DecidableEq, Repr

/-- What the payload builder of `EXEC` gives: bytes, or a failed validation (R156 of 42_orchestrator.md). -/
inductive Payload where
  | built (s : List Byte)
  | unbuildable (why : ArgFault)
deriving DecidableEq, Repr

/-- The fields of a frame but its function code (R70 of 30_encoding.md); `len` is `totalLength`. -/
structure FrameFields where
  addr : Word
  len : Byte
  payload : List Byte
  id : Half
  checksum : Half
deriving DecidableEq, Repr

/-- One constructor per row of spec/opcode_table.json. -/
inductive Instr where
  -- checksum engine (40_checksum.md)
  | crcReset (k : Engine)
  | crcUpdb (k : Engine) (b : Byte)
  | crcUpd (k : Engine) (s : List Byte)
  | crcSum (k : Engine) (s : List Byte)
  | crcGet (k : Engine)
  | crcAppend (s : List Byte)
  | crcVerify (f : List Byte)
  -- field codec (41_codec.md)
  | tsPack (t : Timestamp)
  | tsUnpack (s : List Byte)
  | arcUnpack (s : List Byte)
  | envEncode (addr : Word) (fn : Byte) (payload : List Byte) (id : Half)
  | chmEncode (channels : List Nat)
  | chmDecode (m : Word)
  | prmWpack (code : Half) (value : List Byte)
  -- sequencer (42_orchestrator.md)
  | errDecode (c : Byte)
  | bind (addr : Word)
  | rebind
  | midNext
  | execute (fn : Byte) (payload : Payload)
  | discover
  | model
  -- wire frames (43_function_codes.md)
  | fnError (f : FrameFields)
  | fnReadCurrent (f : FrameFields)
  | fnWriteCurrent (f : FrameFields)
  | fnReadTime (f : FrameFields)
  | fnWriteTime (f : FrameFields)
  | fnReadArchive (f : FrameFields)
  | fnReadPulseWeight (f : FrameFields)
  | fnWritePulseWeight (f : FrameFields)
  | fnLineTest (f : FrameFields)
  | fnReadSettings (f : FrameFields)
  | fnWriteSettings (f : FrameFields)
  | fnInputTest (f : FrameFields)
deriving DecidableEq, Repr

end Sys2Proof
end

