-- ==== Sys2Proof/WellFormed.lean ====
section
/-! DEFINITION. When an instruction is well formed, that is, has an encoding. A host operation takes every operand
value: a value out of its range is not ill formed, the operation answers it with ARG_INVALID or TOO_SHORT (R120 to
R129 of 41_codec.md). A frame obeys R71 of 30_encoding.md: `totalLength == 10 + len(payload)`, in one byte. -/

namespace Sys2Proof

/-- R71: the length byte counts the whole frame. -/
def FrameFields.wellFormed (f : FrameFields) : Bool :=
  decide (f.len.toNat = Config.overhead + f.payload.length)

/-- The instruction has an encoding. -/
def Instr.wellFormed : Instr → Bool
  | .crcReset _ | .crcUpdb _ _ | .crcUpd _ _ | .crcSum _ _ | .crcGet _ | .crcAppend _ | .crcVerify _
  | .tsPack _ | .tsUnpack _ | .arcUnpack _ | .envEncode _ _ _ _ | .chmEncode _ | .chmDecode _ | .prmWpack _ _
  | .errDecode _ | .bind _ | .rebind | .midNext | .execute _ _ | .discover | .model => true
  | .fnError f | .fnReadCurrent f | .fnWriteCurrent f | .fnReadTime f | .fnWriteTime f | .fnReadArchive f
  | .fnReadPulseWeight f | .fnWritePulseWeight f | .fnLineTest f | .fnReadSettings f | .fnWriteSettings f
  | .fnInputTest f => f.wellFormed

/-- Whether the instruction is a host operation (a HOSTCMD row) and not a frame (a FRAME row) (R89). -/
def Instr.isHost : Instr → Bool
  | .crcReset _ | .crcUpdb _ _ | .crcUpd _ _ | .crcSum _ _ | .crcGet _ | .crcAppend _ | .crcVerify _
  | .tsPack _ | .tsUnpack _ | .arcUnpack _ | .envEncode _ _ _ _ | .chmEncode _ | .chmDecode _ | .prmWpack _ _
  | .errDecode _ | .bind _ | .rebind | .midNext | .execute _ _ | .discover | .model => true
  | .fnError _ | .fnReadCurrent _ | .fnWriteCurrent _ | .fnReadTime _ | .fnWriteTime _ | .fnReadArchive _
  | .fnReadPulseWeight _ | .fnWritePulseWeight _ | .fnLineTest _ | .fnReadSettings _ | .fnWriteSettings _
  | .fnInputTest _ => false

/-- The engine instance a checksum operation names or uses (R14, R102 to R108). -/
def Instr.engine : Instr → Option Engine
  | .crcReset k | .crcUpdb k _ | .crcUpd k _ | .crcSum k _ | .crcGet k => some k
  | .crcAppend _ => some .tx
  | .crcVerify _ => some .rx
  | .tsPack _ | .tsUnpack _ | .arcUnpack _ | .envEncode _ _ _ _ | .chmEncode _ | .chmDecode _ | .prmWpack _ _
  | .errDecode _ | .bind _ | .rebind | .midNext | .execute _ _ | .discover | .model
  | .fnError _ | .fnReadCurrent _ | .fnWriteCurrent _ | .fnReadTime _ | .fnWriteTime _ | .fnReadArchive _
  | .fnReadPulseWeight _ | .fnWritePulseWeight _ | .fnLineTest _ | .fnReadSettings _ | .fnWriteSettings _
  | .fnInputTest _ => none

end Sys2Proof
end

