-- ==== Sys2Proof/Machine/Operands.lean ====
section
/-! DEFINITION. How operands and fields become values and back: byte order (R41 of 20_memory.md, R5 of 00_scope.md),
operand assembly (R82 of 30_encoding.md) and the bytes of a frame (R70). -/

namespace Sys2Proof.Machine

/-- `s[i]` on a sequence (R5). No rule reads past the end of a sequence (log 23). -/
def byteAt (s : List Byte) (i : Nat) : Byte := s.getD i 0#8

/-- `v[7:0]` of a 16-bit value. -/
def lo (v : Half) : Byte := v.extractLsb' 0 8
/-- `v[15:8]` of a 16-bit value. -/
def hi (v : Half) : Byte := v.extractLsb' 8 8

/-- `be16(v)` (R5). -/
def be16Bytes (v : Half) : List Byte := [hi v, lo v]
/-- `le16(v)` (R5). -/
def le16Bytes (v : Half) : List Byte := [lo v, hi v]
/-- `be32(v)` (R5): first byte `v[31:24]` (R41). -/
def be32Bytes (v : Word) : List Byte :=
  [v.extractLsb' 24 8, v.extractLsb' 16 8, v.extractLsb' 8 8, v.extractLsb' 0 8]
/-- `le32(v)` (R5). -/
def le32Bytes (v : Word) : List Byte :=
  [v.extractLsb' 0 8, v.extractLsb' 8 8, v.extractLsb' 16 8, v.extractLsb' 24 8]

/-- `BE16` of two bytes, first byte most significant (R5). -/
def be16 (a b : Byte) : Half := a ++ b
/-- `LE16` of two bytes, `a OR b<<8` (R82). -/
def le16 (a b : Byte) : Half := b ++ a
/-- `BE32` of four bytes, `a<<24 OR b<<16 OR c<<8 OR d` (R82). -/
def be32 (a b c d : Byte) : Word := a ++ b ++ c ++ d
/-- `LE32` of four bytes (R5). -/
def le32 (a b c d : Byte) : Word := d ++ c ++ b ++ a

/-- `BE16(s[i .. i+2))`. -/
def be16At (s : List Byte) (i : Nat) : Half := be16 (byteAt s i) (byteAt s (i + 1))
/-- `LE16(s[i .. i+2))`. -/
def le16At (s : List Byte) (i : Nat) : Half := le16 (byteAt s i) (byteAt s (i + 1))
/-- `BE32(s[i .. i+4))`. -/
def be32At (s : List Byte) (i : Nat) : Word :=
  be32 (byteAt s i) (byteAt s (i + 1)) (byteAt s (i + 2)) (byteAt s (i + 3))
/-- `LE32(s[i .. i+4))`. -/
def le32At (s : List Byte) (i : Nat) : Word :=
  le32 (byteAt s i) (byteAt s (i + 1)) (byteAt s (i + 2)) (byteAt s (i + 3))

/-- The length of a sequence in an 8-bit register. -/
def len8 (s : List Byte) : Byte := BitVec.ofNat 8 s.length

/-- The bytes of a frame with function code `fn` (R70): address and message id big-endian, checksum little-endian. -/
def frameBytes (fn : Byte) (f : FrameFields) : List Byte :=
  be32Bytes f.addr ++ [fn, f.len] ++ f.payload ++ be16Bytes f.id ++ le16Bytes f.checksum

/-- The fields of a frame of `s.length` bytes (R82): payload `f[6 .. L-4)`, message id `BE16(f[L-4 .. L-2))`,
checksum `LE16(f[L-2 .. L))`. -/
def frameFields (s : List Byte) : FrameFields where
  addr := be32At s 0
  len := byteAt s 5
  payload := (s.drop 6).take (s.length - 10)
  id := be16At s (s.length - 4)
  checksum := le16At s (s.length - 2)

end Sys2Proof.Machine
end

