-- ==== Sys2Proof/Decode.lean ====
section
/-! DEFINITION. Decoding, total, rejecting by name, and the encoder after it. There are two kinds of instruction
words (section 1 of 30_encoding.md): the command byte written to CMD with its operands by value (R84, R85, R86), and
the bytes of a wire frame, told apart by the byte at frame offset 4 (R80, R89). -/

namespace Sys2Proof

/-- The operands of a command, passed by value (R84). An operation reads the ones R85 gives it (log 1). -/
structure Operands where
  /-- `b`, `fn` or `c` -/
  byte : Byte
  /-- `s`, `f`, `payload` or `value` -/
  bytes : List Byte
  /-- `id` or `code` -/
  half : Half
  /-- `addr` or `m` -/
  word : Word
  /-- the six numbers of `TS.PACK` -/
  time : Timestamp
  /-- the list of `CHM.ENCODE` -/
  channels : List Nat
  /-- of `EXEC`: why the payload could not be built, if it could not (R156) -/
  unbuildable : Option ArgFault
deriving DecidableEq, Repr

/-- No operand given: every number 0, every sequence empty. -/
def Operands.zero : Operands where
  byte := 0#8
  bytes := []
  half := 0#16
  word := 0#32
  time := ⟨0, 0, 0, 0, 0, 0⟩
  channels := []
  unbuildable := none

/-- A write to the register CMD (R25, R84). -/
structure CmdWrite where
  code : Byte
  args : Operands
deriving DecidableEq, Repr

/-- What an instruction looks like outside: a command write or the bytes of a frame. -/
inductive Encoded where
  | cmd (c : CmdWrite)
  | frame (s : List Byte)
deriving DecidableEq, Repr

/-- Why words are no instruction. -/
inductive DecodeError where
  /-- `op` is `0x00` or `0x16` to `0x1F` (R86) -/
  | reservedOp (code : Byte)
  /-- a bit of [7:6] is set (R86) -/
  | reservedBits (code : Byte)
  /-- `k = 1` on an operation that takes no `k` (R86) -/
  | noEngine (code : Byte)
  /-- fewer bytes than the smallest frame of the format (R71) -/
  | shortFrame (n : Nat)
  /-- the length byte is not the number of bytes (R71) -/
  | lengthByte (l : Byte) (n : Nat)
  /-- a function code that opcode_table.json has no row for (R81): the unit handles it without a row -/
  | unassigned (c : Byte)
deriving DecidableEq, Repr

/-- The field `k` of a command code, bit [5] (R84). -/
def engineOf (code : Byte) : Engine := if code.getLsbD 5 then .rx else .tx

/-- The payload operand of `EXEC` (R156). -/
def payloadOf (a : Operands) : Payload :=
  match a.unbuildable with
  | none => .built a.bytes
  | some why => .unbuildable why

/-- An operation that takes no `k` (R86). -/
def withoutEngine (code : Byte) (i : Instr) : Except DecodeError Instr :=
  if code.getLsbD 5 then .error (.noEngine code) else .ok i

/-- The table of R85 by the operation number `op`, bits [4:0]. -/
def decodeOp (op : Nat) (c : CmdWrite) : Except DecodeError Instr :=
  match op with
  | 0x01 => .ok (.crcReset (engineOf c.code))
  | 0x02 => .ok (.crcUpdb (engineOf c.code) c.args.byte)
  | 0x03 => .ok (.crcUpd (engineOf c.code) c.args.bytes)
  | 0x04 => .ok (.crcSum (engineOf c.code) c.args.bytes)
  | 0x05 => .ok (.crcGet (engineOf c.code))
  | 0x06 => withoutEngine c.code (.crcAppend c.args.bytes)
  | 0x07 => withoutEngine c.code (.crcVerify c.args.bytes)
  | 0x08 => withoutEngine c.code (.tsPack c.args.time)
  | 0x09 => withoutEngine c.code (.tsUnpack c.args.bytes)
  | 0x0A => withoutEngine c.code (.arcUnpack c.args.bytes)
  | 0x0B => withoutEngine c.code (.envEncode c.args.word c.args.byte c.args.bytes c.args.half)
  | 0x0C => withoutEngine c.code (.chmEncode c.args.channels)
  | 0x0D => withoutEngine c.code (.chmDecode c.args.word)
  | 0x0E => withoutEngine c.code (.prmWpack c.args.half c.args.bytes)
  | 0x0F => withoutEngine c.code (.errDecode c.args.byte)
  | 0x10 => withoutEngine c.code (.bind c.args.word)
  | 0x11 => withoutEngine c.code .rebind
  | 0x12 => withoutEngine c.code .midNext
  | 0x13 => withoutEngine c.code (.execute c.args.byte (payloadOf c.args))
  | 0x14 => withoutEngine c.code .discover
  | 0x15 => withoutEngine c.code .model
  | _ => .error (.reservedOp c.code)

/-- A command write (R84, R85, R86). -/
def decodeCmd (c : CmdWrite) : Except DecodeError Instr :=
  if c.code.extractLsb' 6 2 = 0#2 then decodeOp (c.code.extractLsb' 0 5).toNat c else .error (.reservedBits c.code)

/-- The function-code map of R80. -/
def decodeFn (fn : Byte) (f : FrameFields) : Except DecodeError Instr :=
  match fn.toNat with
  | 0x00 => .ok (.fnError f)
  | 0x01 => .ok (.fnReadCurrent f)
  | 0x03 => .ok (.fnWriteCurrent f)
  | 0x04 => .ok (.fnReadTime f)
  | 0x05 => .ok (.fnWriteTime f)
  | 0x06 => .ok (.fnReadArchive f)
  | 0x07 => .ok (.fnReadPulseWeight f)
  | 0x08 => .ok (.fnWritePulseWeight f)
  | 0x09 => .ok (.fnLineTest f)
  | 0x0A => .ok (.fnReadSettings f)
  | 0x0B => .ok (.fnWriteSettings f)
  | 0x19 => .ok (.fnInputTest f)
  | _ => .error (.unassigned fn)

/-- The bytes of a whole frame (R70, R71, R73, R89). -/
def decodeFrame (s : List Byte) : Except DecodeError Instr :=
  if s.length < Config.overhead then .error (.shortFrame s.length)
  else if (Machine.byteAt s 5).toNat ≠ s.length then .error (.lengthByte (Machine.byteAt s 5) s.length)
  else decodeFn (Machine.byteAt s 4) (Machine.frameFields s)

/-- The decoder, total on every command write and every byte sequence. -/
def decode : Encoded → Except DecodeError Instr
  | .cmd c => decodeCmd c
  | .frame s => decodeFrame s

/-! ### The encoder, from R84, R85 and R70, R80 -/

/-- A command code: `op` in [4:0], `k` in [5] (R84). -/
def codeOf (op : BitVec 5) (k : Engine) : Byte :=
  match k with
  | .tx => op.setWidth 8
  | .rx => op.setWidth 8 ||| 0x20#8

/-- The command write with operation number `op`, instance `k` and operands `a`. -/
def cmdOf (op : BitVec 5) (k : Engine) (a : Operands) : Encoded := .cmd ⟨codeOf op k, a⟩

/-- The operands of an `EXEC` (R85, R156). -/
def executeArgs (fn : Byte) : Payload → Operands
  | .built s => { Operands.zero with byte := fn, bytes := s }
  | .unbuildable why => { Operands.zero with byte := fn, unbuildable := some why }

/-- The words of an instruction (R85, R80). -/
def encode : Instr → Encoded
  | .crcReset k => cmdOf 0x01#5 k .zero
  | .crcUpdb k b => cmdOf 0x02#5 k { Operands.zero with byte := b }
  | .crcUpd k s => cmdOf 0x03#5 k { Operands.zero with bytes := s }
  | .crcSum k s => cmdOf 0x04#5 k { Operands.zero with bytes := s }
  | .crcGet k => cmdOf 0x05#5 k .zero
  | .crcAppend s => cmdOf 0x06#5 .tx { Operands.zero with bytes := s }
  | .crcVerify f => cmdOf 0x07#5 .tx { Operands.zero with bytes := f }
  | .tsPack t => cmdOf 0x08#5 .tx { Operands.zero with time := t }
  | .tsUnpack s => cmdOf 0x09#5 .tx { Operands.zero with bytes := s }
  | .arcUnpack s => cmdOf 0x0A#5 .tx { Operands.zero with bytes := s }
  | .envEncode addr fn payload id =>
      cmdOf 0x0B#5 .tx { Operands.zero with word := addr, byte := fn, bytes := payload, half := id }
  | .chmEncode channels => cmdOf 0x0C#5 .tx { Operands.zero with channels := channels }
  | .chmDecode m => cmdOf 0x0D#5 .tx { Operands.zero with word := m }
  | .prmWpack code value => cmdOf 0x0E#5 .tx { Operands.zero with half := code, bytes := value }
  | .errDecode c => cmdOf 0x0F#5 .tx { Operands.zero with byte := c }
  | .bind addr => cmdOf 0x10#5 .tx { Operands.zero with word := addr }
  | .rebind => cmdOf 0x11#5 .tx .zero
  | .midNext => cmdOf 0x12#5 .tx .zero
  | .execute fn payload => cmdOf 0x13#5 .tx (executeArgs fn payload)
  | .discover => cmdOf 0x14#5 .tx .zero
  | .model => cmdOf 0x15#5 .tx .zero
  | .fnError f => .frame (Machine.frameBytes 0x00#8 f)
  | .fnReadCurrent f => .frame (Machine.frameBytes 0x01#8 f)
  | .fnWriteCurrent f => .frame (Machine.frameBytes 0x03#8 f)
  | .fnReadTime f => .frame (Machine.frameBytes 0x04#8 f)
  | .fnWriteTime f => .frame (Machine.frameBytes 0x05#8 f)
  | .fnReadArchive f => .frame (Machine.frameBytes 0x06#8 f)
  | .fnReadPulseWeight f => .frame (Machine.frameBytes 0x07#8 f)
  | .fnWritePulseWeight f => .frame (Machine.frameBytes 0x08#8 f)
  | .fnLineTest f => .frame (Machine.frameBytes 0x09#8 f)
  | .fnReadSettings f => .frame (Machine.frameBytes 0x0A#8 f)
  | .fnWriteSettings f => .frame (Machine.frameBytes 0x0B#8 f)
  | .fnInputTest f => .frame (Machine.frameBytes 0x19#8 f)

/-- A frame instruction's function code and other fields (R80); `none` for a host operation. -/
def Instr.frameOf : Instr → Option (Byte × FrameFields)
  | .fnError f => some (0x00#8, f)
  | .fnReadCurrent f => some (0x01#8, f)
  | .fnWriteCurrent f => some (0x03#8, f)
  | .fnReadTime f => some (0x04#8, f)
  | .fnWriteTime f => some (0x05#8, f)
  | .fnReadArchive f => some (0x06#8, f)
  | .fnReadPulseWeight f => some (0x07#8, f)
  | .fnWritePulseWeight f => some (0x08#8, f)
  | .fnLineTest f => some (0x09#8, f)
  | .fnReadSettings f => some (0x0A#8, f)
  | .fnWriteSettings f => some (0x0B#8, f)
  | .fnInputTest f => some (0x19#8, f)
  | .crcReset _ | .crcUpdb _ _ | .crcUpd _ _ | .crcSum _ _ | .crcGet _ | .crcAppend _ | .crcVerify _
  | .tsPack _ | .tsUnpack _ | .arcUnpack _ | .envEncode _ _ _ _ | .chmEncode _ | .chmDecode _ | .prmWpack _ _
  | .errDecode _ | .bind _ | .rebind | .midNext | .execute _ _ | .discover | .model => none

/-! ### The words of the opcode table (log 2) -/

/-- The `n` bytes of `w` from its bit 0 up, the first byte first. -/
def bytesOfNat : Nat → Nat → List Byte
  | 0, _ => []
  | n + 1, w => BitVec.ofNat 8 w :: bytesOfNat n (w / 256)

/-- The smallest frame a unit accepts (R162) with the function code `fn`, every other field zero. -/
def shortFrameFields : FrameFields where
  addr := 0#32
  len := 0x0B#8
  payload := [0#8]
  id := 0#16
  checksum := 0#16

/-- The words of the table: under 48 bits a command code with its operands zero, or, where that is reserved, the
function byte of a frame whose other fields are zero; from 48 bits on a frame from its first byte (log 2). -/
def tableWord (nbits w : Nat) : Encoded :=
  if nbits < 48 then
    match decodeCmd ⟨BitVec.ofNat 8 w, .zero⟩ with
    | .ok _ => .cmd ⟨BitVec.ofNat 8 w, .zero⟩
    | .error _ => .frame (Machine.frameBytes (BitVec.ofNat 8 w) shortFrameFields)
  else .frame (bytesOfNat (max (nbits / 8) (w / 256 ^ 5 % 256)) w)

/-- The instruction the decoder reads from a word numbered as spec/opcode_table.json numbers it. -/
def decodeTableWord (nbits w : Nat) : Option Instr :=
  if nbits < 48 ∧ 256 ≤ w then none
  else match decode (tableWord nbits w) with
    | .ok i => some i
    | .error _ => none

end Sys2Proof
end

