-- ==== Sys2Proof/Machine/State.lean ====
section
/-! DEFINITION. The state of one unit and of its environment, plain data: the tuple of R10 of 10_state.md, the
OPEN parameters, the transport (R53 of 20_memory.md), the host's coming inputs and what the host has been told. -/

namespace Sys2Proof.Machine

/-- Why the model stops. Neither can happen from a state that meets the invariant of Safety.lean (log 23). -/
inductive Fault where
  /-- Raised by a write past byte 254 of TXBUF or RXBUF, an index that does not exist (R15, R16). Only parameters
  outside R79 ask for one. Safe: the model stops where the spec gives no effect. -/
  | bufferIndex
  /-- Raised when SEQ names a step that no operation in flight can be at (SEQ is not IDLE with no operation, or a
  step that the operation in flight does not have). No rule leads there. Safe. -/
  | strayStep
deriving DecidableEq, Repr

/-- Why the model gives no meaning. -/
inductive Refusal where
  /-- Raised by an arm of `exec` whose instruction has no meaning yet; none has. Safe. -/
  | notModelled (mnemonic : String)
deriving DecidableEq, Repr

/-- `SEQ` (R20). -/
inductive Seq where
  | idle | build | txPrep | txWrite | txFlush | rxPrep | rxHdr | rxBody | rxFilt | chkCrc | chkErr | chkFn
deriving DecidableEq, Repr

/-- The tag of a result (R231 of 60_exceptions.md). -/
inductive Kind where
  | ok | timeout | ioFail | tooShort | checksum | invalidFrame | protoMismatch | deviceError | argInvalid | notBound
  | busyRefused | skipLimit | illegalCmd
deriving DecidableEq, Repr

/-- The value of a success result, by the column "Result on success" of R85. -/
inductive Value where
  | none
  | half (v : Half)
  | word (v : Word)
  | bytes (s : List Byte)
  | time (t : Timestamp)
  | archive (channel : Word) (start : Timestamp) (samples : List Word)
  | channels (c : List Nat)
  | name (n : ProtoError)
deriving DecidableEq, Repr

/-- An error result with the information R231 records. `e` is the transport's own error, "surfaced verbatim"
(log 22). -/
inductive Err where
  | timeout (step : Seq)
  | ioFail (step : Seq) (e : Nat)
  | tooShort (n : Nat)
  | checksum (computed received : Half)
  | invalidFrame (l : Byte)
  | protoMismatch (req resp : Byte)
  | deviceError (code : Byte) (name : ProtoError)
  | argInvalid (which : ArgFault)
  | notBound
  | busyRefused
  | skipLimit (skips : Nat)
  | illegalCmd (code : Byte)
deriving DecidableEq, Repr

/-- Exactly one result per operation (R230). -/
inductive Result where
  | ok (v : Value)
  | err (e : Err)
deriving DecidableEq, Repr

/-- A frame buffer, as its written bytes by index, indices rising (R40). -/
abbrev Memory := List Host.Cell

/-- The sequenced operation in flight and its operands (log 4). -/
inductive SeqOp where
  | execute (fn : Byte) (payload : List Byte)
  | discover
  | model
deriving DecidableEq, Repr

/-- A call the unit makes on the transport, or a log event (R45 to R52). -/
inductive TifCall where
  | prepWrite
  | txWrite (s : List Byte)
  | txFlush
  | prepRead
  | rxRead (n : Nat)
  | logReq
  | logResp
deriving DecidableEq, Repr

/-- How far a blocked transport primitive has come when a hardware reset cuts it off: what U20 of
93_implementation_defined.md leaves open "as U6, U9" (log 28). -/
structure Cut where
  /-- time the primitive has taken so far, for a read behind the last byte it consumed -/
  took : Nat
  /-- of the bytes of a write, how many have got into the output buffer -/
  accepted : Nat
  /-- how many buffered bytes have reached the line -/
  visible : Nat
  /-- how many bytes a read has consumed -/
  consumed : Nat
deriving DecidableEq, Repr

/-- What a host can do: write CMD, or assert the reset input (R260), between two rows of R175 (no cut) or inside the
blocking primitive of the row the unit is at. -/
inductive HostAct where
  | cmd (c : CmdWrite)
  | reset (cut : Option Cut)
deriving DecidableEq, Repr

/-- A coming act of the host. It lands when `delay` steps of the unit have gone by and, if the host waits, the unit
is not busy (log 6). -/
structure Input where
  delay : Nat
  waits : Bool
  act : HostAct
deriving DecidableEq, Repr

/-- What a later transport will do, installed by a `REBIND` (R60) (log 19). -/
structure Link where
  rx : List RxEvent
  tx : List TxAnswer
  capture : Bool
  sink : Bool
deriving DecidableEq, Repr

/-- The transport (R45 to R53). -/
structure Transport where
  outBuf : List Byte
  line : List Byte
  rx : List RxEvent
  rxDrawn : Nat
  tx : List TxAnswer
  txDrawn : Nat
  now : Nat
  deadline : Option Nat
  capture : Bool
  sink : Bool
  capTx : List Byte
  capRx : List Byte
deriving DecidableEq, Repr

/-- The whole machine. Registers have the spec's names (R10); the rest is named in INVENTORY.md. -/
structure State where
  addr : Word
  addrV : Bool
  mid : Half
  reqfn : Byte
  crcTx : Half
  crcRx : Half
  txbuf : Memory
  txlen : Byte
  rxbuf : Memory
  rxlen : Byte
  seq : Seq
  idx : Byte
  rem : Byte
  skips : Nat
  busy : Bool
  done : Bool
  addrHit : Bool
  crcOk : Bool
  isErr : Bool
  fnOk : Bool
  kind : Kind
  errcode : Byte
  respfn : Byte
  respmid : Half
  bodylen : Byte
  paylen : Byte
  calccrc : Half
  recvcrc : Half
  op : Option SeqOp
  params : Params
  transport : Transport
  links : List Link
  inputs : List Input
  answers : List Result
  calls : List TifCall
  drawn : Nat
deriving DecidableEq, Repr

/-- The machine right after hardware reset (R28), with a transport that has done nothing yet (log 16). -/
def State.reset : State where
  addr := 0x00000000#32
  addrV := false
  mid := Config.midReset
  reqfn := 0x00#8
  crcTx := Config.crcInit
  crcRx := Config.crcInit
  txbuf := []
  txlen := 0#8
  rxbuf := []
  rxlen := 0#8
  seq := .idle
  idx := 0#8
  rem := 0#8
  skips := 0
  busy := false
  done := false
  addrHit := false
  crcOk := false
  isErr := false
  fnOk := false
  kind := .ok
  errcode := 0#8
  respfn := 0#8
  respmid := 0#16
  bodylen := 0#8
  paylen := 0#8
  calccrc := 0#16
  recvcrc := 0#16
  op := none
  params := Config.params
  transport :=
    { outBuf := [], line := [], rx := [], rxDrawn := 0, tx := [], txDrawn := 0, now := 0, deadline := none
      capture := false, sink := false, capTx := [], capRx := [] }
  links := []
  inputs := []
  answers := []
  calls := []
  drawn := 0

end Sys2Proof.Machine
end

