-- ==== Sys2Proof/Machine/Memory.lean ====
section
/-! DEFINITION. The two frame buffers TXBUF and RXBUF (R15, R16 of 10_state.md, R40 of 20_memory.md): reading and
writing bytes by index. An index that nothing has written holds no value of the model's (U10, log 14). -/

namespace Sys2Proof.Machine

/-- The byte written at index `a`, if one was. -/
def Memory.get? : Memory → Nat → Option Byte
  | [], _ => none
  | (k, b) :: m, a => if k = a then some b else Memory.get? m a

/-- Byte `a` of buffer `sp`. An index nothing has written reads as a free value (log 14). -/
def Memory.read (sp : Space) (m : Memory) (a : Nat) : Byte := (m.get? a).getD (Config.bufferByte sp a)

/-- Write one byte. -/
def Memory.set : Memory → Nat → Byte → Memory
  | [], a, b => [(a, b)]
  | (k, c) :: m, a, b =>
    if a < k then (a, b) :: (k, c) :: m
    else if a = k then (a, b) :: m
    else (k, c) :: Memory.set m a b

/-- `MemRead(space, a, n)` (R5). -/
def Memory.readBytes (sp : Space) (m : Memory) : Nat → Nat → List Byte
  | _, 0 => []
  | a, n + 1 => m.read sp a :: Memory.readBytes sp m (a + 1) n

/-- The bytes `s` at the indices from `a` on. -/
def Memory.setBytes : Memory → Nat → List Byte → Memory
  | m, _, [] => m
  | m, a, b :: s => Memory.setBytes (m.set a b) (a + 1) s

/-- `MemWrite(space, a, len(s), s)` (R5): it cannot go past index 254. -/
def Memory.write (m : Memory) (a : Nat) (s : List Byte) : Except Fault Memory :=
  if a + s.length ≤ Config.bufSize then .ok (m.setBytes a s) else .error .bufferIndex

/-- The canonical form: indices strictly rising, all of them below 255. No value is excluded, since an index that is
not listed has no value of its own (log 14). -/
abbrev Memory.wf (m : Memory) : Prop :=
  m.Pairwise (fun x y => x.1 < y.1) ∧ ∀ c ∈ m, c.1 < Config.bufSize

end Sys2Proof.Machine
end

