-- ==== Sys2Proof/Machine/Flags.lean ====
section
/-! DEFINITION. The flags (R24 of 10_state.md), the tag of a result (R231 of 60_exceptions.md) and the host-visible
registers with their numbers (R25). -/

namespace Sys2Proof.Machine

/-- The flags and SKIPS at the start of a sequenced operation (R156): `BUSY` 1, the others it names 0. `ADDR_V` is
not touched. -/
def State.startFlags (s : State) : State :=
  { s with busy := true, done := false, addrHit := false, crcOk := false, isErr := false, fnOk := false, skips := 0 }

/-- The register value of `SEQ` (R25). 12 to 15 never occur. -/
def Seq.code : Seq → BitVec 4
  | .idle => 0 | .build => 1 | .txPrep => 2 | .txWrite => 3 | .txFlush => 4 | .rxPrep => 5 | .rxHdr => 6
  | .rxBody => 7 | .rxFilt => 8 | .chkCrc => 9 | .chkErr => 10 | .chkFn => 11

/-- The register value of `KIND` (R231). 13 to 15 never occur. -/
def Kind.code : Kind → BitVec 4
  | .ok => 0 | .timeout => 1 | .ioFail => 2 | .tooShort => 3 | .checksum => 4 | .invalidFrame => 5
  | .protoMismatch => 6 | .deviceError => 7 | .argInvalid => 8 | .notBound => 9 | .busyRefused => 10
  | .skipLimit => 11 | .illegalCmd => 12

/-- The kind of an error result (R231). -/
def Err.kind : Err → Kind
  | .timeout _ => .timeout
  | .ioFail _ _ => .ioFail
  | .tooShort _ => .tooShort
  | .checksum _ _ => .checksum
  | .invalidFrame _ => .invalidFrame
  | .protoMismatch _ _ => .protoMismatch
  | .deviceError _ _ => .deviceError
  | .argInvalid _ => .argInvalid
  | .notBound => .notBound
  | .busyRefused => .busyRefused
  | .skipLimit _ => .skipLimit
  | .illegalCmd _ => .illegalCmd

/-- A flag at bit `i` of the FLAGS word. -/
def flagBit (b : Bool) (i : Nat) : Byte := if b then 1#8 <<< i else 0#8

/-- Register 0x01 `FLAGS` (R25): bit 7 is zero. -/
def State.flagsWord (s : State) : Byte :=
  flagBit s.busy 0 ||| flagBit s.done 1 ||| flagBit s.addrV 2 ||| flagBit s.addrHit 3 ||| flagBit s.crcOk 4 |||
    flagBit s.isErr 5 ||| flagBit s.fnOk 6

/-- What the host reads at a register number (R25), zero-extended to 32 bits. `CMD` (0x00) is write-only, and the
numbers above 0x13 name no register. R251 calls `SKIPS` readable, but R25 gives it no number and R23 no width: no number reads
it here, and it is read as the field `skips` of the state. DESIGN CHOICE (log 24). -/
def State.readReg (s : State) (n : Nat) : Option Word :=
  match n with
  | 0x01 => some (s.flagsWord.setWidth 32)
  | 0x02 => some (s.kind.code.setWidth 32)
  | 0x03 => some s.addr
  | 0x04 => some (s.mid.setWidth 32)
  | 0x05 => some (s.reqfn.setWidth 32)
  | 0x06 => some (s.crcTx.setWidth 32)
  | 0x07 => some (s.crcRx.setWidth 32)
  | 0x08 => some (s.errcode.setWidth 32)
  | 0x09 => some (s.respfn.setWidth 32)
  | 0x0A => some (s.respmid.setWidth 32)
  | 0x0B => some (s.bodylen.setWidth 32)
  | 0x0C => some (s.paylen.setWidth 32)
  | 0x0D => some (s.calccrc.setWidth 32)
  | 0x0E => some (s.recvcrc.setWidth 32)
  | 0x0F => some (s.txlen.setWidth 32)
  | 0x10 => some (s.rxlen.setWidth 32)
  | 0x11 => some (s.seq.code.setWidth 32)
  | 0x12 => some (s.idx.setWidth 32)
  | 0x13 => some (s.rem.setWidth 32)
  | _ => none

end Sys2Proof.Machine
end

