-- ==== Sys2Proof/Machine/Ops.lean ====
section
/-! DEFINITION. The shared operations: ending an operation with a result (R230), taking an error (R240), refusing a
command while busy (R270), accepting a sequenced operation (R156), the transcript of transport calls, and hardware
reset (R260). -/

namespace Sys2Proof.Machine

/-- What a step answers. -/
abbrev Out := Host.Outcome State Fault Refusal

/-- `return v` of an operation that completes at once: `KIND`, `DONE` and the value (R24, R27, R230). -/
def State.ret (s : State) (v : Value) : State :=
  { s with kind := .ok, done := true, answers := .ok v :: s.answers }

/-- `return v` of a sequenced operation: as `ret`, and the operation is no longer in flight (R24, R175). -/
def State.finish (s : State) (v : Value) : State :=
  { s with kind := .ok, busy := false, done := true, seq := .idle, op := none, answers := .ok v :: s.answers }

/-- TAKING AN ERROR, `raise K(info)` (R240): `KIND` gets the kind, `BUSY` 0, `DONE` 1, `SEQ` `IDLE`, nothing is saved
and nothing undone. There is no return from it (R243): the next operation starts as after a success. -/
def State.raise (s : State) (e : Err) : State :=
  { s with kind := e.kind, busy := false, done := true, seq := .idle, op := none, answers := .err e :: s.answers }

/-- The end of an immediate operation, by value or by error. -/
def State.conclude (s : State) (r : Except Err Value) : State :=
  match r with
  | .ok v => s.ret v
  | .error e => s.raise e

/-- `BUSY_REFUSED`: answered to the issuer by value only, no register changes (R270; 90_conflicts.md C8). -/
def State.refuseBusy (s : State) : State := { s with answers := .err .busyRefused :: s.answers }

/-- "if BUSY = 1 then refuse BUSY_REFUSED", else `t` (R150, R156, R270). -/
def unlessBusy (s t : State) : Out := .next (if s.busy then s.refuseBusy else t)

/-- A reserved command code: refused with `ILLEGAL_CMD`, or with `BUSY_REFUSED` while busy (R86). -/
def illegalCmd (code : Byte) (s : State) : Out := unlessBusy s (s.raise (.illegalCmd code))

/-- A sequenced operation is accepted (R156, R180, R182): flags, and `SEQ` to `BUILD` (R175). -/
def State.accept (s : State) (o : SeqOp) : State := { s.startFlags with seq := .build, op := some o }

/-- The unit calls a transport primitive, or emits a log event (R45 to R52). -/
def State.call (s : State) (c : TifCall) : State := { s with calls := c :: s.calls }

/-- `CRC[k]` (R14). -/
def State.crc (s : State) : Engine → Half
  | .tx => s.crcTx
  | .rx => s.crcRx

/-- `CRC[k] <- v` (R14). -/
def State.setCrc (s : State) (k : Engine) (v : Half) : State :=
  match k with
  | .tx => { s with crcTx := v }
  | .rx => { s with crcRx := v }

/-- `MemRead(RXBUF, 0, RXLEN)`: the valid bytes of RXBUF (R16). -/
def State.rxBytes (s : State) : List Byte := s.rxbuf.readBytes .rx 0 s.rxlen.toNat

/-- `MemRead(TXBUF, 0, TXLEN)`: the valid bytes of TXBUF (R15). -/
def State.txBytes (s : State) : List Byte := s.txbuf.readBytes .tx 0 s.txlen.toNat

/-- Hardware reset (R260): every register of the unit at its value of R28, an operation in flight abandoned without a
result. The transport and what the host and the environment hold are not reset. -/
def State.hardReset (s : State) : State :=
  { State.reset with
    params := s.params
    transport := s.transport
    links := s.links
    inputs := s.inputs
    answers := s.answers
    calls := s.calls
    drawn := s.drawn }

end Sys2Proof.Machine
end

