-- ==== Sys2Proof/Machine/Transport.lean ====
section
/-! DEFINITION. The transport interface (R45 to R53 of 20_memory.md): the environment's side of the unit's loads and
stores. What the line and the transport do is data in State, continued by free values (logs 8 to 12). -/

namespace Sys2Proof.Machine

/-- How a blocking primitive fails (R46, R49). -/
inductive IoErr where
  | timedOut
  | failed (e : Nat)
deriving DecidableEq, Repr

/-- The error result a failure ends the operation with, at the step it failed in (R231). -/
def IoErr.raised (step : Seq) : IoErr → Err
  | .timedOut => .timeout step
  | .failed e => .ioFail step e

/-- A transport that has done nothing yet, as a `REBIND` finds it (R60): streams empty of earlier content, no deadline,
empty capture. Time and the counters of free values go on. -/
def Transport.renewed (t : Transport) (l : Link) : Transport :=
  { t with
    outBuf := [], line := [], rx := l.rx, tx := l.tx, deadline := none, capture := l.capture, sink := l.sink
    capTx := [], capRx := [] }

/-- A fresh deadline, "now + configured timeout" (R45, R48). -/
def Transport.renewDeadline (t : Transport) (timeout : Nat) : Transport :=
  { t with deadline := some (t.now + timeout) }

/-- `PrepWrite()` (R45): capture of the write direction reset, fresh deadline. -/
def Transport.prepWrite (t : Transport) (timeout : Nat) : Transport :=
  { t.renewDeadline timeout with capTx := [] }

/-- `PrepRead()` (R48): as `PrepWrite()`, for the read direction. -/
def Transport.prepRead (t : Transport) (timeout : Nat) : Transport :=
  { t.renewDeadline timeout with capRx := [] }

/-- Whether the deadline is over `d` units of time from now (log 11). -/
def Transport.late (t : Transport) (d : Nat) : Bool :=
  match t.deadline with
  | none => false
  | some e => decide (e < t.now + d)

/-- The moment the deadline expires: the unit has waited up to it. -/
def Transport.expire (t : Transport) : Transport :=
  { t with now := max t.now (t.deadline.getD t.now) }

/-- Time that remains of a gap when the deadline has expired inside it. -/
def Transport.leftOf (t : Transport) (gap : Nat) : Nat := gap - (t.deadline.getD t.now - t.now)

/-- The transport's next answer to a write or a flush: a listed one, else a free value (log 10). -/
def Transport.nextTx (t : Transport) : TxAnswer × Transport :=
  match t.tx with
  | a :: rest => (a, { t with tx := rest })
  | [] => (Config.txAnswer t.txDrawn, { t with txDrawn := t.txDrawn + 1 })

/-- The line's next event: a listed one, else a free value (log 8). -/
def Transport.nextRx (t : Transport) : RxEvent × Transport :=
  match t.rx with
  | ev :: rest => (ev, { t with rx := rest })
  | [] => (Config.lineEvent t.rxDrawn, { t with rxDrawn := t.rxDrawn + 1 })

/-- The outcome of an answer, given the deadline (R50): an answer that comes too late is a timeout. -/
def Transport.outcome (t : Transport) (a : TxAnswer) : Except IoErr Unit :=
  if t.late a.took then .error .timedOut
  else match a.outcome with
    | .done => .ok ()
    | .timedOut => .error .timedOut
    | .failed e => .error (.failed e)

/-- The time after an answer. -/
def Transport.after (t : Transport) (a : TxAnswer) : Transport :=
  match t.outcome a with
  | .error .timedOut => t.expire
  | _ => { t with now := t.now + a.took }

/-- Bytes transferred in the write direction are captured when capture is enabled (R46, R51). -/
def Transport.captureTx (t : Transport) (s : List Byte) : Transport :=
  if t.capture then { t with capTx := t.capTx ++ s } else t

/-- Bytes transferred in the read direction are captured when capture is enabled (R49, R51). -/
def Transport.captureRx (t : Transport) (s : List Byte) : Transport :=
  if t.capture then { t with capRx := t.capRx ++ s } else t

/-- The first `n` buffered bytes go to the line (R47, U7). -/
def Transport.show (t : Transport) (n : Nat) : Transport :=
  { t with line := t.line ++ t.outBuf.take n, outBuf := t.outBuf.drop n }

/-- After a failure only `n` of the bytes still buffered stay so (U6, log 10). -/
def Transport.keep (t : Transport) (n : Nat) : Transport := { t with outBuf := t.outBuf.take n }

/-- `TxWrite(bytes)` (R46): all bytes appended to the buffered output, or a failure. -/
def Transport.write (t : Transport) (s : List Byte) : Except IoErr Unit × Transport :=
  match t.nextTx with
  | (a, t) =>
    match t.outcome a with
    | .ok () => (.ok (), (({ t.after a with outBuf := t.outBuf ++ s }).captureTx s).show a.visible)
    | .error e =>
      (.error e, ((({ t.after a with outBuf := t.outBuf ++ s.take a.accepted }).captureTx (s.take a.accepted)).show
        a.visible).keep a.kept)

/-- `TxFlush()` (R47): every buffered byte handed to the line, in order, or a failure. -/
def Transport.flush (t : Transport) : Except IoErr Unit × Transport :=
  match t.nextTx with
  | (a, t) =>
    match t.outcome a with
    | .ok () => (.ok (), (t.after a).show t.outBuf.length)
    | .error e => (.error e, ((t.after a).show a.visible).keep a.kept)

/-- The read fails because the deadline expires in a gap: what was to arrive is still to come, later by less. -/
def Transport.stillToCome (t : Transport) (ev : RxEvent) : Transport := { t.expire with rx := ev :: t.rx }

/-- `RxRead(n)` (R49): the next `n` bytes in arrival order, or a failure; the bytes a failed read has consumed are
lost (log 9). -/
def Transport.read : Nat → Transport → Except IoErr (List Byte) × Transport
  | 0, t => (.ok [], t)
  | n + 1, t =>
    match t.nextRx with
    | (.arrive gap b, t) =>
      if t.late gap then (.error .timedOut, t.stillToCome (.arrive (t.leftOf gap) b))
      else match Transport.read n (({ t with now := t.now + gap }).captureRx [b]) with
        | (.ok s, t) => (.ok (b :: s), t)
        | (.error e, t) => (.error e, t)
    | (.silence, t) => (.error .timedOut, t.expire)
    | (.fail gap e, t) =>
      if t.late gap then (.error .timedOut, t.stillToCome (.fail (t.leftOf gap) e))
      else (.error (.failed e), { t with now := t.now + gap })

/-! ### A primitive that a hardware reset cuts off (R260, U20; log 28) -/

/-- Time that goes by in a blocked primitive, which ends no later than its deadline (R50). -/
def Transport.pass (t : Transport) (d : Nat) : Transport := if t.late d then t.expire else { t with now := t.now + d }

/-- What is still to come after `d` units of time of its wait. -/
def sooner (d : Nat) : RxEvent → RxEvent
  | .arrive gap b => .arrive (gap - d) b
  | .silence => .silence
  | .fail gap e => .fail (gap - d) e

/-- The unit has waited `d` units of time, or up to its deadline, for the line's next event. -/
def Transport.linger (t : Transport) (d : Nat) : Transport :=
  { t.pass d with rx := t.rx.modifyHead (sooner ((t.pass d).now - t.now)) }

/-- `RxRead` cut off when it has consumed `k` bytes, or all that came before the event it was waiting for, and has waited
`d` units of time more. The consumed bytes are lost (U9). -/
def Transport.readCut : Nat → Nat → Transport → Transport
  | 0, d, t => t.linger d
  | k + 1, d, t =>
    match t.nextRx with
    | (.arrive gap b, u) =>
      if u.late gap then ({ u with rx := .arrive gap b :: u.rx } : Transport).linger d
      else Transport.readCut k d (({ u with now := u.now + gap } : Transport).captureRx [b])
    | (ev, u) => ({ u with rx := ev :: u.rx } : Transport).linger d

/-- `TxWrite(bytes)` cut off: any front of the bytes is buffered, any front of what is buffered is on the line (U6). -/
def Transport.writeCut (t : Transport) (s : List Byte) (c : Cut) : Transport :=
  (({ t.pass c.took with outBuf := t.outBuf ++ s.take c.accepted } : Transport).captureTx (s.take c.accepted)).show
    c.visible

/-- `TxFlush()` cut off: any front of what is buffered is on the line (U6). -/
def Transport.flushCut (t : Transport) (c : Cut) : Transport := (t.pass c.took).show c.visible

/-- A call on the transport cut off. A read has consumed fewer bytes than it asks for, else it would have ended (U9). -/
def Transport.cut (t : Transport) (c : Cut) : TifCall → Transport
  | .txWrite s => t.writeCut s c
  | .txFlush => t.flushCut c
  | .rxRead n => Transport.readCut (min c.consumed (n - 1)) c.took t
  | .prepWrite | .prepRead | .logReq | .logResp => t

/-- The capture buffer of the write direction is cleared when a sink took it (R52). -/
def Transport.logReq (t : Transport) : Transport := if t.sink then { t with capTx := [] } else t

/-- The capture buffer of the read direction is cleared when a sink took it (R52). -/
def Transport.logResp (t : Transport) : Transport := if t.sink then { t with capRx := [] } else t

/-! ### The primitives as the unit calls them -/

/-- The unit calls `PrepWrite()`. -/
def State.prepWrite (s : State) : State :=
  { s.call .prepWrite with transport := s.transport.prepWrite s.params.timeout }

/-- The unit calls `PrepRead()`. -/
def State.prepRead (s : State) : State :=
  { s.call .prepRead with transport := s.transport.prepRead s.params.timeout }

/-- The unit calls `TxWrite`. -/
def State.txWrite (s : State) (b : List Byte) : Except IoErr Unit × State :=
  match s.transport.write b with
  | (r, t) => (r, { s.call (.txWrite b) with transport := t })

/-- The unit calls `TxFlush()`. -/
def State.txFlush (s : State) : Except IoErr Unit × State :=
  match s.transport.flush with
  | (r, t) => (r, { s.call .txFlush with transport := t })

/-- The unit calls `RxRead(n)`. -/
def State.rxRead (s : State) (n : Nat) : Except IoErr (List Byte) × State :=
  match s.transport.read n with
  | (r, t) => (r, { s.call (.rxRead n) with transport := t })

/-- The unit emits `LogReq()` (R52). -/
def State.logReq (s : State) : State := { s.call .logReq with transport := s.transport.logReq }

/-- The unit emits `LogResp()` (R52). -/
def State.logResp (s : State) : State := { s.call .logResp with transport := s.transport.logResp }

/-- How many bytes the read of the step asks for (R43, R161, R163, R180, R182); `none` at a step that reads nothing. -/
def State.readSize (s : State) : Option Nat :=
  match s.op, s.seq with
  | some (.execute _ _), .rxHdr => some Config.hdrLen
  | some (.execute _ _), .rxBody => some s.rem.toNat
  | some .discover, .rxHdr => some s.params.discRespLen
  | some .model, .rxHdr => some s.params.modelRespLen
  | _, _ => none

/-- The call that the unit blocks in at its step. It is suspended nowhere else (R50, R249). -/
def State.blockedIn (s : State) : Option TifCall :=
  match s.seq with
  | .txWrite => some (.txWrite s.txBytes)
  | .txFlush => some .txFlush
  | _ => s.readSize.map .rxRead

/-- The call the unit blocks in has been made and is cut off; nothing else of the row has happened. Without a cut, or
where the unit blocks in nothing, the row has not begun. -/
def State.cutOff (s : State) (cut : Option Cut) : State :=
  match cut, s.blockedIn with
  | some c, some p => { s.call p with transport := s.transport.cut c p }
  | _, _ => s

end Sys2Proof.Machine
end

