-- ==== Sys2Proof/Machine/Checksum.lean ====
section
/-! DEFINITION. The checksum engine CSE (40_checksum.md): the byte step, the fold, and the seven operations. -/

namespace Sys2Proof.Machine

/-- One of the eight iterations of R100: "if low bit set, shift right and XOR with 0xA001, else shift right". -/
def crcShift (c : Half) : Half := if c.getLsbD 0 then (c >>> 1) ^^^ Config.crcPoly else c >>> 1

/-- `crc_step(c, b)` (R100). -/
def crcStep (c : Half) (b : Byte) : Half := Nat.repeat crcShift 8 (c ^^^ b.setWidth 16)

/-- `fold(s, c)` (R101). -/
def crcFold (s : List Byte) (c : Half) : Half := s.foldl crcStep c

/-- `crc16(s)` (R101). -/
def crc16 (s : List Byte) : Half := crcFold s Config.crcInit

/-- What `CRC.APPEND` returns (R106): the checksum little-endian behind the bytes. -/
def withChecksum (s : List Byte) : List Byte := s ++ le16Bytes (crc16 s)

/-- The effect of `CRC.VERIFY` on the registers and the error it raises (R107). The checksum covers all but the last two
bytes; all 16 bits are compared. -/
def State.verify (s : State) (f : List Byte) : State × Option Err :=
  if f.length < 2 then (s, some (.tooShort f.length))
  else
    let computed := crc16 (f.take (f.length - 2))
    let received := le16At f (f.length - 2)
    ({ s with crcRx := computed, calccrc := computed, recvcrc := received, crcOk := decide (computed = received) },
      if computed = received then none else some (.checksum computed received))

/-- `CRC.RESET k` (R102). -/
def execCrcReset (k : Engine) (s : State) : Out := unlessBusy s ((s.setCrc k Config.crcInit).ret .none)

/-- `CRC.UPDB k, b` (R103). -/
def execCrcUpdb (k : Engine) (b : Byte) (s : State) : Out :=
  unlessBusy s ((s.setCrc k (crcStep (s.crc k) b)).ret .none)

/-- `CRC.UPD k, s` (R104). -/
def execCrcUpd (k : Engine) (b : List Byte) (s : State) : Out :=
  unlessBusy s ((s.setCrc k (crcFold b (s.crc k))).ret .none)

/-- `CRC.SUM k, s` (R105). -/
def execCrcSum (k : Engine) (b : List Byte) (s : State) : Out :=
  unlessBusy s ((s.setCrc k (crc16 b)).ret (.half (crc16 b)))

/-- `CRC.GET k` (R108). -/
def execCrcGet (k : Engine) (s : State) : Out := unlessBusy s (s.ret (.half (s.crc k)))

/-- `CRC.APPEND s` (R106): uses instance `TX`. -/
def execCrcAppend (b : List Byte) (s : State) : Out :=
  unlessBusy s ((s.setCrc .tx (crc16 b)).ret (.bytes (withChecksum b)))

/-- `CRC.VERIFY f` (R107): uses instance `RX`. -/
def execCrcVerify (f : List Byte) (s : State) : Out :=
  unlessBusy s (match s.verify f with
    | (t, none) => t.ret .none
    | (t, some e) => t.raise e)

end Sys2Proof.Machine
end

