-- ==== Sys2Proof/Machine/Codec.lean ====
section
/-! DEFINITION. The field codec COD (41_codec.md): pure functions of the operands, and the operations that return
them. Nothing but KIND and DONE is written. -/

namespace Sys2Proof.Machine

/-- `TS.PACK` (R120): each field must fit its byte, the year 2000 to 2255. -/
def tsPack (t : Timestamp) : Except Err (List Byte) :=
  if t.year < 2000 ∨ 2255 < t.year then .error (.argInvalid .year)
  else if 255 < t.month ∨ 255 < t.day ∨ 255 < t.hour ∨ 255 < t.minute ∨ 255 < t.second then
    .error (.argInvalid .field)
  else .ok [BitVec.ofNat 8 (t.year - 2000), BitVec.ofNat 8 t.month, BitVec.ofNat 8 t.day, BitVec.ofNat 8 t.hour,
    BitVec.ofNat 8 t.minute, BitVec.ofNat 8 t.second]

/-- The six fields at the front of a sequence (R75, R82). -/
def tsFields (s : List Byte) : Timestamp where
  year := 2000 + (byteAt s 0).toNat
  month := (byteAt s 1).toNat
  day := (byteAt s 2).toNat
  hour := (byteAt s 3).toNat
  minute := (byteAt s 4).toNat
  second := (byteAt s 5).toNat

/-- `TS.UNPACK` (R121): bytes after the sixth are ignored, no field is checked. -/
def tsUnpack (s : List Byte) : Except Err Timestamp :=
  if s.length < Config.tsLen then .error (.tooShort s.length) else .ok (tsFields s)

/-- The samples of an archive record, `none` when a partial sample of 1 to 3 bytes is left (R123). -/
def arcSamples : List Byte → Option (List Word)
  | [] => some []
  | a :: b :: c :: d :: rest => (arcSamples rest).map (le32 a b c d :: ·)
  | _ => none

/-- `ARC.UNPACK` (R123): channel id, start, samples. -/
def arcUnpack (s : List Byte) : Except Err Value :=
  if s.length < Config.arcMin then .error (.tooShort s.length)
  else match arcSamples (s.drop Config.arcMin) with
    | none => .error (.tooShort s.length)
    | some samples => .ok (.archive (le32At s 0) (tsFields (s.drop 4)) samples)

/-- `ENV.ENCODE` (R125): the frame without its checksum; the length byte counts the checksum too. -/
def envEncode (addr : Word) (fn : Byte) (payload : List Byte) (id : Half) : Except Err (List Byte) :=
  if Config.maxPayload < payload.length then .error (.argInvalid .payloadLength)
  else .ok (be32Bytes addr ++ [fn, BitVec.ofNat 8 (Config.overhead + payload.length)] ++ payload ++ be16Bytes id)

/-- The loop of `CHM.ENCODE` (R127). -/
def chmLoop : List Nat → Word → Except Err Word
  | [], m => .ok m
  | c :: rest, m =>
    if c < 1 then .error (.argInvalid .channelZero)
    else if Config.maxChannel < c then .error (.argInvalid .channelAbove)
    else chmLoop rest (m ||| (1#32 <<< (c - 1)))

/-- `CHM.ENCODE` (R127). -/
def chmEncode (channels : List Nat) : Except Err Word :=
  if channels = [] then .error (.argInvalid .emptyChannelSet) else chmLoop channels 0#32

/-- `CHM.DECODE` (R128): ascending channel numbers of the bits that are set. -/
def chmDecode (m : Word) : List Nat := ((List.range Config.maxChannel).filter (fun i => m.getLsbD i)).map (· + 1)

/-- `PRM.WPACK` (R129): code little-endian, value, zero bytes up to 8. -/
def prmWpack (code : Half) (value : List Byte) : Except Err (List Byte) :=
  if Config.prmValueLen < value.length then .error (.argInvalid .valueLength)
  else .ok (le16Bytes code ++ value ++ List.replicate (Config.prmValueLen - value.length) 0#8)

/-- `TS.PACK` as a host operation (R120). -/
def execTsPack (t : Timestamp) (s : State) : Out := unlessBusy s (s.conclude ((tsPack t).map .bytes))

/-- `TS.UNPACK` as a host operation (R121). -/
def execTsUnpack (b : List Byte) (s : State) : Out := unlessBusy s (s.conclude ((tsUnpack b).map .time))

/-- `ARC.UNPACK` as a host operation (R123). -/
def execArcUnpack (b : List Byte) (s : State) : Out := unlessBusy s (s.conclude (arcUnpack b))

/-- `ENV.ENCODE` as a host operation (R125). -/
def execEnvEncode (addr : Word) (fn : Byte) (payload : List Byte) (id : Half) (s : State) : Out :=
  unlessBusy s (s.conclude ((envEncode addr fn payload id).map .bytes))

/-- `CHM.ENCODE` as a host operation (R127). -/
def execChmEncode (channels : List Nat) (s : State) : Out :=
  unlessBusy s (s.conclude ((chmEncode channels).map .word))

/-- `CHM.DECODE` as a host operation (R128). -/
def execChmDecode (m : Word) (s : State) : Out := unlessBusy s (s.ret (.channels (chmDecode m)))

/-- `PRM.WPACK` as a host operation (R129). -/
def execPrmWpack (code : Half) (value : List Byte) (s : State) : Out :=
  unlessBusy s (s.conclude ((prmWpack code value).map .bytes))

end Sys2Proof.Machine
end

