-- ==== Sys2Proof/Machine/Orchestrator.lean ====
section
/-! DEFINITION. The host operations of the sequencer ORC (42_orchestrator.md): binding, message id, error names, and the
issue of the three sequenced operations. Their further steps are in Sequencer.lean. -/

namespace Sys2Proof.Machine

/-- The next message id (R152): modulo 2^16, skipping 0. -/
def nextMid (m : Half) : Half := if m + 1#16 = 0#16 then 1#16 else m + 1#16

/-- `err_name(c) = ERR_TABLE(c)` (R167, R213). A code past the table's end is `unknown` (log 25). -/
def errName (p : Params) (c : Byte) : ProtoError := p.errTable.getD c.toNat .unknown

/-- `ERR.DECODE c` (R167). -/
def execErrDecode (c : Byte) (s : State) : Out := unlessBusy s (s.ret (.name (errName s.params c)))

/-- `BIND addr` (R150). -/
def execBind (addr : Word) (s : State) : Out :=
  unlessBusy s (({ s with addr := addr, addrV := true, mid := Config.midReset } : State).ret .none)

/-- The transport that a `REBIND` finds installed: the next one of the environment's list (R60, log 19). -/
def State.reconnect (s : State) : State :=
  match s.links with
  | [] => { s with transport := s.transport.renewed ⟨[], [], s.transport.capture, s.transport.sink⟩ }
  | l :: rest => { s with transport := s.transport.renewed l, links := rest }

/-- `REBIND` (R151): no register of the unit changes but KIND and DONE (R27). -/
def execRebind (s : State) : Out := unlessBusy s (s.reconnect.ret .none)

/-- `MID.NEXT` (R152). -/
def execMidNext (s : State) : Out :=
  unlessBusy s (({ s with mid := nextMid s.mid } : State).ret (.half (nextMid s.mid)))

/-- The issue checks of `EXEC` behind the one for `BUSY`, in the order of R156. -/
def State.issueExecute (s : State) (fn : Byte) (payload : Payload) : State :=
  if s.addrV = false then s.raise .notBound
  else match payload with
    | .unbuildable why => s.raise (.argInvalid why)
    | .built b =>
      if Config.maxPayload < b.length then s.raise (.argInvalid .payloadLength) else s.accept (.execute fn b)

/-- `EXEC fn, payload` is issued (R155, R156): the rows of R175 with `SEQ = IDLE`. -/
def execExecute (fn : Byte) (payload : Payload) (s : State) : Out := unlessBusy s (s.issueExecute fn payload)

/-- `DISCOVER` is issued (R180): it needs no address. -/
def execDiscover (s : State) : Out := unlessBusy s (s.accept .discover)

/-- `MODEL` is issued (R182). -/
def execModel (s : State) : Out :=
  unlessBusy s (if s.addrV = false then s.raise .notBound else s.accept .model)

end Sys2Proof.Machine
end

