-- ==== Sys2Proof/Machine/Sequencer.lean ====
section
/-! DEFINITION. The steps of a sequenced operation after its issue: the rows of R175 of 42_orchestrator.md for EXEC, and
the same states used by DISCOVER (R180) and MODEL (R182) as R183 says. One call is one row. -/

namespace Sys2Proof.Machine

/-- The frame to send is put in TXBUF (R158, R180). -/
def State.loadTx (s : State) (frame : List Byte) : Out :=
  match s.txbuf.write 0 frame with
  | .ok m => .next { s with txbuf := m, txlen := len8 frame, seq := .txPrep }
  | .error f => .fault f

/-- Steps 1 and 2 (R157, R158): a fresh id, the envelope, its checksum behind it. The envelope cannot fail behind the
issue checks. -/
def State.buildRequest (s : State) (fn : Byte) (payload : List Byte) : Out :=
  match envEncode s.addr fn payload (nextMid s.mid) with
  | .ok env =>
    ({ s with reqfn := fn, mid := nextMid s.mid, crcTx := crc16 env } : State).loadTx (withChecksum env)
  | .error e => .next (({ s with reqfn := fn, mid := nextMid s.mid } : State).raise e)

/-- `SEQ = BUILD` (R157, R158, R180, R182). -/
def stepBuild (s : State) : Out :=
  match s.op with
  | some (.execute fn payload) => s.buildRequest fn payload
  | some .discover => s.loadTx s.params.discReq
  | some .model => s.buildRequest s.params.modelFn s.params.modelPayload
  | none => .fault .strayStep

/-- `SEQ = TX_PREP` (R159). `IDX` is 0 at the start of a `TX_WRITE` (R21). -/
def stepTxPrep (s : State) : Out := .next { s.prepWrite with idx := 0#8, seq := .txWrite }

/-- `SEQ = TX_WRITE` (R159). -/
def stepTxWrite (s : State) : Out :=
  match s.txWrite s.txBytes with
  | (.ok (), t) => .next { t with idx := t.txlen, seq := .txFlush }
  | (.error e, t) => .next (t.raise (e.raised .txWrite))

/-- `SEQ = TX_FLUSH`: the flush, then `LogReq()` (R159). -/
def stepTxFlush (s : State) : Out :=
  match s.txFlush with
  | (.ok (), t) => .next { t.logReq with seq := .rxPrep }
  | (.error e, t) => .next (t.raise (e.raised .txFlush))

/-- `SEQ = RX_PREP` (R161, R180, R182). -/
def stepRxPrep (s : State) : Out := .next { s.prepRead with rxlen := 0#8, idx := 0#8, seq := .rxHdr }

/-- Received bytes go to RXBUF from index `a` on; `RXLEN` and `IDX` are the number of bytes in it (R16, R21). -/
def State.loadRx (s : State) (a : Nat) (b : List Byte) : Except Fault State :=
  match s.rxbuf.write a b with
  | .ok m => .ok { s with rxbuf := m, rxlen := BitVec.ofNat 8 (a + b.length), idx := BitVec.ofNat 8 (a + b.length) }
  | .error f => .error f

/-- `n` bytes are read and put in RXBUF from index `a` on, then `k` goes on; the read may fail. -/
def State.receive (s : State) (step : Seq) (a n : Nat) (k : State → Out) : Out :=
  match s.rxRead n with
  | (.error e, t) => .next (t.raise (e.raised step))
  | (.ok b, t) =>
    match t.loadRx a b with
    | .ok u => k u
    | .error f => .fault f

/-- The length check (R162): `L < 11` on the unsigned byte, before the address is looked at. -/
def State.checkLength (s : State) : State :=
  let l := s.rxbuf.read .rx 5
  if l.toNat < Config.minRxFrame then s.raise (.invalidFrame l) else { s with rem := l - 6#8, seq := .rxBody }

/-- `SEQ = RX_HDR`: the header of a frame and the length check (R161, R162), or the whole of a fixed-size response
(R180, R182). -/
def stepRxHdr (s : State) : Out :=
  match s.op with
  | some (.execute _ _) => s.receive .rxHdr 0 Config.hdrLen (fun t => .next t.checkLength)
  | some .discover => s.receive .rxHdr 0 s.params.discRespLen (fun t => .next { t with seq := .chkCrc })
  | some .model => s.receive .rxHdr 0 s.params.modelRespLen (fun t => .next { t with seq := .rxFilt })
  | none => .fault .strayStep

/-- `SEQ = RX_BODY` (R163): no second `PrepRead()`. -/
def stepRxBody (s : State) : Out :=
  s.receive .rxBody Config.hdrLen s.rem.toNat (fun t => .next { t with seq := .rxFilt })

/-- Whether `n` skips are more than the bound (R165). -/
def overLimit (maxSkips : Option Nat) (n : Nat) : Bool :=
  match maxSkips with
  | none => false
  | some m => decide (m < n)

/-- A foreign frame: discarded, the loop goes on unless the bound on skips is passed (R164, R165). -/
def State.skip (s : State) : State :=
  let t : State := { s with addrHit := false, skips := s.skips + 1 }
  if overLimit s.params.maxSkips (s.skips + 1) then t.raise (.skipLimit (s.skips + 1)) else { t with seq := .rxPrep }

/-- The address filter of `EXEC` (R164): all 32 bits, for equality. -/
def filterFrame (f : List Byte) (s : State) : State :=
  if be32At f 0 = s.addr then { s with addrHit := true, respfn := byteAt f 4, seq := .chkCrc } else s.skip

/-- Step 5 (R166). -/
def checkFrame (f : List Byte) (s : State) : State :=
  match s.verify f with
  | (t, none) => { t with seq := .chkErr }
  | (t, some e) => t.raise e

/-- Step 6 (R167). -/
def errorTest (f : List Byte) (s : State) : State :=
  if byteAt f 4 = Config.fnError then
    ({ s with isErr := true, errcode := byteAt f 6 } : State).raise
      (.deviceError (byteAt f 6) (errName s.params (byteAt f 6)))
  else { s with seq := .chkFn }

/-- Steps 7 and 8 (R168, R169): the body is the bytes between the 6-byte header and the 2-byte checksum. -/
def matchFunction (f : List Byte) (s : State) : State :=
  if byteAt f 4 = s.reqfn then
    ({ s with
        fnOk := true
        bodylen := BitVec.ofNat 8 (f.length - 8)
        paylen := BitVec.ofNat 8 (f.length - 10)
        respmid := be16At f (f.length - 4) } : State).logResp.finish (.bytes ((f.drop 6).take (f.length - 8)))
  else s.raise (.protoMismatch s.reqfn (byteAt f 4))

/-- The row of R175 that the unit performs on the whole frame `f` it holds, whatever its function code (R200, R215). -/
def frameStage (f : List Byte) (s : State) : Out :=
  match s.seq with
  | .rxFilt => .next (filterFrame f s)
  | .chkCrc => .next (checkFrame f s)
  | .chkErr => .next (errorTest f s)
  | .chkFn => .next (matchFunction f s)
  | _ => .fault .strayStep

/-- Whether an `EXEC` has a whole frame in RXBUF and is at a row that acts on it (log 5). -/
def State.holdsFrame (s : State) : Bool :=
  match s.op, s.seq with
  | some (.execute _ _), .rxFilt => true
  | some (.execute _ _), .chkCrc => true
  | some (.execute _ _), .chkErr => true
  | some (.execute _ _), .chkFn => true
  | _, _ => false

/-- `RESPFN <- r[4]` of a `MODEL` response (R182). R79 allows a response of 4 bytes, which has no byte 4: the register
then gets a free value (log 15). -/
def State.setRespfn (s : State) (r : List Byte) : State :=
  if r.length ≤ 4 then { s with respfn := Config.freeByte s.drawn, drawn := s.drawn + 1 }
  else { s with respfn := byteAt r 4 }

/-- The end of a `MODEL` (R182): the whole response is returned undecoded. -/
def State.endModel (s : State) (r : List Byte) : State := s.logResp.finish (.bytes r)

/-- The address filter of `MODEL` (R182); the checksum check follows only if `MODEL_VERIFY`. -/
def filterModel (r : List Byte) (s : State) : State :=
  if be32At r 0 = s.addr then
    if s.params.modelVerify then { ({ s with addrHit := true } : State).setRespfn r with seq := .chkCrc }
    else (({ s with addrHit := true } : State).setRespfn r).endModel r
  else s.skip

/-- The checksum check of `MODEL`, only with `MODEL_VERIFY` (R182). -/
def checkModel (r : List Byte) (s : State) : State :=
  match s.verify r with
  | (t, none) => t.endModel r
  | (t, some e) => t.raise e

/-- The end of a `DISCOVER` (R180): the address is bound and returned. -/
def State.endDiscover (s : State) (a : Word) : State :=
  ({ s with addr := a, addrV := true, mid := Config.midReset } : State).logResp.finish (.word a)

/-- The checksum check of `DISCOVER` and its end (R180). -/
def checkDiscover (r : List Byte) (s : State) : State :=
  match s.verify r with
  | (t, none) => t.endDiscover (be32At r s.params.discAddrOff)
  | (t, some e) => t.raise e

/-- `SEQ = RX_FILT` or `CHK_CRC` of a fixed-size response (R180, R182). -/
def stepResponse (s : State) : Out :=
  match s.op, s.seq with
  | some .model, .rxFilt => .next (filterModel s.rxBytes s)
  | some .model, .chkCrc => .next (checkModel s.rxBytes s)
  | some .discover, .chkCrc => .next (checkDiscover s.rxBytes s)
  | _, _ => .fault .strayStep

/-- The unit takes its next step by `SEQ` (R175) when it holds no whole frame. In `IDLE` it waits (R28). -/
def advance (s : State) : Out :=
  match s.seq with
  | .idle => .next s
  | .build => stepBuild s
  | .txPrep => stepTxPrep s
  | .txWrite => stepTxWrite s
  | .txFlush => stepTxFlush s
  | .rxPrep => stepRxPrep s
  | .rxHdr => stepRxHdr s
  | .rxBody => stepRxBody s
  | .rxFilt => stepResponse s
  | .chkCrc => stepResponse s
  | .chkErr => .fault .strayStep
  | .chkFn => .fault .strayStep

end Sys2Proof.Machine
end

