-- ==== Sys2Proof/Machine/Frames.lean ====
section
/-! DEFINITION. The wire frames, one meaning for each assigned function code (43_function_codes.md). The unit treats all
codes alike but 0x00 (R80, R200), so each is one line over the shared operation. -/

namespace Sys2Proof.Machine

/-- A frame that comes while the unit holds none in hand arrives on the RX stream, behind what stands there (R54, R59,
R275, log 5). -/
def State.arriving (s : State) (f : List Byte) : State :=
  { s with transport := { s.transport with rx := s.transport.rx ++ f.map (RxEvent.arrive 0) } }

/-- What the unit does with a frame: the row of R175 it is at, if it holds the frame, else the frame waits in the
stream (R200). -/
def receiveFrame (f : List Byte) (s : State) : Out :=
  if s.holdsFrame then frameStage f s else .next (s.arriving f)

/-- "error" (R201). -/
def execFnError (f : FrameFields) (s : State) : Out := receiveFrame (frameBytes 0x00#8 f) s
/-- "read current values" (R202). -/
def execFnReadCurrent (f : FrameFields) (s : State) : Out := receiveFrame (frameBytes 0x01#8 f) s
/-- "write current value" (R203). -/
def execFnWriteCurrent (f : FrameFields) (s : State) : Out := receiveFrame (frameBytes 0x03#8 f) s
/-- "read system time" (R204). -/
def execFnReadTime (f : FrameFields) (s : State) : Out := receiveFrame (frameBytes 0x04#8 f) s
/-- "write system time" (R205). -/
def execFnWriteTime (f : FrameFields) (s : State) : Out := receiveFrame (frameBytes 0x05#8 f) s
/-- "read archive" (R206). -/
def execFnReadArchive (f : FrameFields) (s : State) : Out := receiveFrame (frameBytes 0x06#8 f) s
/-- "read pulse weight" (R207). -/
def execFnReadPulseWeight (f : FrameFields) (s : State) : Out := receiveFrame (frameBytes 0x07#8 f) s
/-- "write pulse weight" (R208). -/
def execFnWritePulseWeight (f : FrameFields) (s : State) : Out := receiveFrame (frameBytes 0x08#8 f) s
/-- "line test" (R209). -/
def execFnLineTest (f : FrameFields) (s : State) : Out := receiveFrame (frameBytes 0x09#8 f) s
/-- "read settings" (R210). -/
def execFnReadSettings (f : FrameFields) (s : State) : Out := receiveFrame (frameBytes 0x0A#8 f) s
/-- "write settings" (R211). -/
def execFnWriteSettings (f : FrameFields) (s : State) : Out := receiveFrame (frameBytes 0x0B#8 f) s
/-- "input test" (R212). -/
def execFnInputTest (f : FrameFields) (s : State) : Out := receiveFrame (frameBytes 0x19#8 f) s

end Sys2Proof.Machine
end

