-- ==== Sys2Proof/Machine/Dispatch.lean ====
section
/-! DEFINITION. The dispatch: one arm for each instruction, each one direct call of its meaning. -/

namespace Sys2Proof.Machine

def exec (i : Instr) (s : State) : Host.Outcome State Fault Refusal :=
  match i with
  | .crcReset k => Sys2Proof.Machine.execCrcReset k s
  | .crcUpdb k b => Sys2Proof.Machine.execCrcUpdb k b s
  | .crcUpd k b => Sys2Proof.Machine.execCrcUpd k b s
  | .crcSum k b => Sys2Proof.Machine.execCrcSum k b s
  | .crcGet k => Sys2Proof.Machine.execCrcGet k s
  | .crcAppend b => Sys2Proof.Machine.execCrcAppend b s
  | .crcVerify f => Sys2Proof.Machine.execCrcVerify f s
  | .tsPack t => Sys2Proof.Machine.execTsPack t s
  | .tsUnpack b => Sys2Proof.Machine.execTsUnpack b s
  | .arcUnpack b => Sys2Proof.Machine.execArcUnpack b s
  | .envEncode addr fn payload id => Sys2Proof.Machine.execEnvEncode addr fn payload id s
  | .chmEncode channels => Sys2Proof.Machine.execChmEncode channels s
  | .chmDecode m => Sys2Proof.Machine.execChmDecode m s
  | .prmWpack code value => Sys2Proof.Machine.execPrmWpack code value s
  | .errDecode c => Sys2Proof.Machine.execErrDecode c s
  | .bind addr => Sys2Proof.Machine.execBind addr s
  | .rebind => Sys2Proof.Machine.execRebind s
  | .midNext => Sys2Proof.Machine.execMidNext s
  | .execute fn payload => Sys2Proof.Machine.execExecute fn payload s
  | .discover => Sys2Proof.Machine.execDiscover s
  | .model => Sys2Proof.Machine.execModel s
  | .fnError f => Sys2Proof.Machine.execFnError f s
  | .fnReadCurrent f => Sys2Proof.Machine.execFnReadCurrent f s
  | .fnWriteCurrent f => Sys2Proof.Machine.execFnWriteCurrent f s
  | .fnReadTime f => Sys2Proof.Machine.execFnReadTime f s
  | .fnWriteTime f => Sys2Proof.Machine.execFnWriteTime f s
  | .fnReadArchive f => Sys2Proof.Machine.execFnReadArchive f s
  | .fnReadPulseWeight f => Sys2Proof.Machine.execFnReadPulseWeight f s
  | .fnWritePulseWeight f => Sys2Proof.Machine.execFnWritePulseWeight f s
  | .fnLineTest f => Sys2Proof.Machine.execFnLineTest f s
  | .fnReadSettings f => Sys2Proof.Machine.execFnReadSettings f s
  | .fnWriteSettings f => Sys2Proof.Machine.execFnWriteSettings f s
  | .fnInputTest f => Sys2Proof.Machine.execFnInputTest f s

end Sys2Proof.Machine
end

