-- ==== Sys2Proof/Machine/Fetch.lean ====
section
/-! DEFINITION. Where the next instruction comes from. The unit has no program counter and no stored program (R20): a
host operation comes with a write to CMD (R84), a frame is the instruction of the rows of R175 that act on RXBUF, and the
other rows of R175 need no instruction (logs 5, 6). -/

namespace Sys2Proof.Machine

/-- What the next step is: an instruction and the state it runs in, or an outcome with no instruction. -/
inductive Fetched where
  | instr (i : Instr) (s : State)
  | plain (o : Out)

/-- Whether an act of the host lands at this step (log 6). -/
def Input.lands (i : Input) (busy : Bool) : Bool := i.delay == 0 && (!i.waits || !busy)

/-- A step of the unit goes by before a coming act. -/
def Input.tick (i : Input) : Input := { i with delay := i.delay - 1 }

/-- An act of the host: a command, which is decoded (R84, R85) or is a reserved code (R86), or a reset (R260),
which cuts off the primitive the unit is blocked in, if it lands inside one. -/
def hostAct (a : HostAct) (s : State) : Fetched :=
  match a with
  | .cmd c =>
    match decodeCmd c with
    | .ok i => .instr i s
    | .error _ => .plain (illegalCmd c.code s)
  | .reset cut => .plain (.next (s.cutOff cut).hardReset)

/-- A step of the unit itself: on the frame it holds, which is decoded by its function code, an unassigned code taking
the same operation with no instruction of its own (R81, R215); else by `SEQ`. -/
def unitAct (s : State) : Fetched :=
  if s.holdsFrame then
    match decodeFrame s.rxBytes with
    | .ok i => .instr i s
    | .error _ => .plain (frameStage s.rxBytes s)
  else .plain (advance s)

/-- The next step: an act of the host that lands, else a step of the unit. -/
def fetch (s : State) : Fetched :=
  match s.inputs with
  | [] => unitAct s
  | i :: rest =>
    if i.lands s.busy then hostAct i.act { s with inputs := rest }
    else unitAct { s with inputs := i.tick :: rest }

/-- The state whose next step fetches the given words of the opcode table (log 2): a command that lands at once, or a
whole frame that an `EXEC` holds in RXBUF at `RX_FILT`. -/
def State.placeWord (s : State) (nbits w : Nat) : State :=
  match tableWord nbits w with
  | .cmd c => { s with inputs := ⟨0, false, .cmd c⟩ :: s.inputs }
  | .frame f =>
    { s with
      inputs := []
      busy := true
      op := some (.execute (byteAt f 4) [])
      rxbuf := s.rxbuf.setBytes 0 f
      rxlen := len8 f
      seq := .rxFilt }

end Sys2Proof.Machine
end

