-- ==== Sys2Proof/Machine/Step.lean ====
section
/-! DEFINITION. One step of the machine. -/

namespace Sys2Proof.Machine

/-- What a fetched instruction does, or the outcome that needs none. -/
def Fetched.run : Fetched → Out
  | .instr i s => exec i s
  | .plain o => o

/-- One step: the fetched instruction, or the outcome that needs none. -/
def step (s : State) : Host.Outcome State Fault Refusal := (fetch s).run

/-- The words of the opcode table where the next step fetches its instruction. -/
def State.withFetchWord (s : State) (nbits w : Nat) : State := s.placeWord nbits w

end Sys2Proof.Machine
end

