-- ==== Sys2Proof/Safety.lean ====
section
/-! DEFINITION. What counts as a safe state, and the words claims are stated in. -/

namespace Sys2Proof.Machine

/-- The operation in flight, if any, is one that has the step `SEQ` names: EXEC has them all (R175), DISCOVER reads once
and has neither filter nor function match (R180), MODEL has no length byte and no function match (R182). -/
def State.atOwnStep (s : State) : Bool :=
  match s.op, s.seq with
  | none, .idle => true
  | none, _ => false
  | some _, .idle => false
  | some (.execute _ _), _ => true
  | some .discover, .rxBody => false
  | some .discover, .rxFilt => false
  | some .discover, .chkErr => false
  | some .discover, .chkFn => false
  | some .discover, _ => true
  | some .model, .rxBody => false
  | some .model, .chkErr => false
  | some .model, .chkFn => false
  | some .model, _ => true

/-- The step of R175 has the request built and sent behind it. -/
def Seq.pastBuild : Seq → Bool
  | .idle | .build => false
  | _ => true

/-- THE INVARIANT of the unit. Every state a run reaches meets it. -/
structure State.Inv (s : State) : Prop where
  /-- the parameters are an instance of the hardware (R79) -/
  params : s.params.ok = true
  /-- the buffers keep their canonical form -/
  txbuf : s.txbuf.wf
  rxbuf : s.rxbuf.wf
  /-- `BUSY` is 1 exactly from acceptance to result (R24) -/
  busy : s.busy = true ↔ s.seq ≠ .idle
  /-- the step is one of the operation in flight -/
  step : s.atOwnStep = true
  /-- EXEC and MODEL run with a bound address (R156, R182) -/
  bound : s.op ≠ none → s.op ≠ some .discover → s.addrV = true
  /-- the payload of an accepted EXEC fits a frame (R156) -/
  payload : ∀ fn p, s.op = some (.execute fn p) → p.length ≤ Config.maxPayload
  /-- the request's function code is latched (R13) -/
  reqfn : ∀ fn p, s.op = some (.execute fn p) → s.seq.pastBuild = true → s.reqfn = fn
  /-- every valid byte of the buffers has been written (R15, R16): no rule reads an unspecified byte -/
  txValid : ∀ i, i < s.txlen.toNat → (s.txbuf.get? i).isSome = true
  rxValid : ∀ i, i < s.rxlen.toNat → (s.rxbuf.get? i).isSome = true
  /-- behind the length check the header is in RXBUF and `REM` is 5 to 249 (R22, R162) -/
  header : s.seq = .rxBody → s.rxlen = 6#8 ∧ 5 ≤ s.rem.toNat ∧ s.rem.toNat ≤ 249 ∧
    (s.rxbuf.read .rx 5).toNat = s.rem.toNat + 6
  /-- a frame in hand has at least 11 bytes, as many as its length byte says (R162, R163) -/
  frame : s.holdsFrame = true → 11 ≤ s.rxlen.toNat ∧ s.rxbuf.read .rx 5 = s.rxlen
  /-- a fixed-size response has its size (R180, R182) -/
  discovered : s.op = some .discover → s.seq = .chkCrc → s.rxlen.toNat = s.params.discRespLen
  modelled : s.op = some .model → s.seq = .rxFilt ∨ s.seq = .chkCrc → s.rxlen.toNat = s.params.modelRespLen
  /-- `IDX` counts the bytes of the frame in RXBUF while one is received (R21) -/
  idx : s.seq = .rxHdr ∨ s.seq = .rxBody → s.idx = s.rxlen
  /-- the function match is never reached by an error frame (R167) -/
  noError : s.seq = .chkFn → s.rxbuf.read .rx 4 ≠ Config.fnError
  /-- with a bound on skips, a running receive loop has not passed it (R165) -/
  skips : ∀ m, s.params.maxSkips = some m → s.busy = true → s.skips ≤ m

/-- The act of the host that lands at the next step, if one does (log 6). -/
def State.landing (s : State) : Option HostAct :=
  match s.inputs with
  | [] => none
  | i :: _ => if i.lands s.busy then some i.act else none

/-- A step of the unit goes by before the host's coming act (log 6). Nothing else changes. -/
def State.ticked (s : State) : State :=
  { s with inputs := match s.inputs with
      | [] => []
      | i :: rest => i.tick :: rest }

/-- The end of an operation with an error, in the words of R240. -/
def State.errorEnd (t : State) (e : Err) : State :=
  { t with kind := e.kind, busy := false, done := true, seq := .idle, op := none, answers := .err e :: t.answers }

/-- The end of a sequenced operation with a value (R24, R175, R230). -/
def State.okEnd (t : State) (v : Value) : State :=
  { t with kind := .ok, busy := false, done := true, seq := .idle, op := none, answers := .ok v :: t.answers }

/-- What an operation that completes at once leaves, if it makes the registers those of `t` and ends with `r`: while busy
it is refused and only its issuer hears of it (R270), else `KIND` and `DONE` are written (R24, R230, R240). -/
def State.immediate (s t : State) (r : Except Err Value) : State :=
  if s.busy then { s with answers := .err .busyRefused :: s.answers }
  else match r with
    | .ok v => { t with kind := .ok, done := true, answers := .ok v :: t.answers }
    | .error e => t.errorEnd e

/-- Instructions one after the other. -/
def execAll : List Instr → State → Out
  | [], s => .next s
  | i :: is, s =>
    match exec i s with
    | .next t => execAll is t
    | .fault f => .fault f
    | .refused r => .refused r

/-- The bytes a frame's checksum is computed over (R72): all but the last two. -/
def checkedBytes (fn : Byte) (f : FrameFields) : List Byte :=
  be32Bytes f.addr ++ [fn, f.len] ++ f.payload ++ be16Bytes f.id

/-- `d` units of time from now are not past the deadline (R49, R50; log 11). -/
def Transport.inTime (t : Transport) (d : Nat) : Prop := ∀ e, t.deadline = some e → t.now + d ≤ e

/-- The step is behind the flush of the request, so the operation reads (R55). -/
def Seq.receiving : Seq → Bool
  | .rxPrep | .rxHdr | .rxBody | .rxFilt | .chkCrc | .chkErr | .chkFn => true
  | .idle | .build | .txPrep | .txWrite | .txFlush => false

/-- `n` steps of the machine. -/
def runs (n : Nat) (s : State) : Out := Sys2Proof.core.run n s

/-- The whole request frame `CRC.APPEND(ENV.ENCODE(addr, fn, payload, id))` (R126). -/
def requestFrame (addr : Word) (fn : Byte) (payload : List Byte) (id : Half) : List Byte :=
  withChecksum (be32Bytes addr ++ [fn, BitVec.ofNat 8 (10 + payload.length)] ++ payload ++ be16Bytes id)

/-- Bytes with the time the unit waits for each. -/
abbrev Timed := List (Nat × Byte)

/-- The line's events for timed bytes. -/
def arrivals (t : Timed) : List RxEvent := t.map (fun p => .arrive p.1 p.2)

/-- The bytes of timed bytes. -/
def octets (t : Timed) : List Byte := t.map Prod.snd

/-- How long the unit waits for all of them. -/
def waits (t : Timed) : Nat := (t.map Prod.fst).sum

/-- A whole frame that passes the length check (R162): its length byte counts its bytes, 11 or more. -/
def isFrame (f : List Byte) : Prop := 11 ≤ f.length ∧ (byteAt f 5).toNat = f.length

/-- The trailing two bytes are the checksum of the rest (R72, R107). -/
def checksumHolds (f : List Byte) : Prop := crc16 (f.take (f.length - 2)) = le16At f (f.length - 2)

/-- The newest write or flush among the calls on the transport, if there is one. -/
def lastOutput : List TifCall → Option TifCall
  | [] => none
  | .txWrite s :: _ => some (.txWrite s)
  | .txFlush :: _ => some .txFlush
  | .prepWrite :: cs => lastOutput cs
  | .prepRead :: cs => lastOutput cs
  | .rxRead _ :: cs => lastOutput cs
  | .logReq :: cs => lastOutput cs
  | .logResp :: cs => lastOutput cs

/-- The tag of a result (R231). -/
def Result.kind : Result → Kind
  | .ok _ => .ok
  | .err e => e.kind

end Sys2Proof.Machine
end

