-- ==== Sys2Proof/Certificates/Slice0/Obligations.lean ====
section
/-! DEFINITION. The statements for the provers. Each docstring names the rule or section of spec/ it formalises. -/

open Sys2Proof Sys2Proof.Machine

/-! ### Checksum engine -/

/-- R100, R101 (40_checksum.md): the byte step in plain arithmetic, the fold, and the checksum of a sequence. -/
def Obligations.CrcByteStepAndFold : Prop :=
  (∀ (c : Half) (b : Byte), (crcStep c b).toNat =
    Nat.repeat (fun x => if x % 2 = 1 then (x / 2) ^^^ 0xA001 else x / 2) 8 (c.toNat ^^^ b.toNat)) ∧
  (∀ c : Half, crcFold [] c = c) ∧
  (∀ (b : Byte) (s : List Byte) (c : Half), crcFold (b :: s) c = crcFold s (crcStep c b)) ∧
  (∀ s : List Byte, crc16 s = crcFold s 0xFFFF#16)

/-- R102, R103: `CRC.RESET k` sets that running value to 0xFFFF and `CRC.UPDB k, b` folds one byte into it; both touch
nothing else. -/
def Obligations.CrcResetAndUpdateByte : Prop :=
  (∀ a : Operands,
    decodeCmd ⟨0x01#8, a⟩ = .ok (.crcReset .tx) ∧ decodeCmd ⟨0x21#8, a⟩ = .ok (.crcReset .rx) ∧
    decodeCmd ⟨0x02#8, a⟩ = .ok (.crcUpdb .tx a.byte) ∧ decodeCmd ⟨0x22#8, a⟩ = .ok (.crcUpdb .rx a.byte)) ∧
  ∀ (s : State) (b : Byte),
    exec (.crcReset .tx) s = .next (s.immediate { s with crcTx := 0xFFFF#16 } (.ok .none)) ∧
    exec (.crcReset .rx) s = .next (s.immediate { s with crcRx := 0xFFFF#16 } (.ok .none)) ∧
    exec (.crcUpdb .tx b) s = .next (s.immediate { s with crcTx := crcStep s.crcTx b } (.ok .none)) ∧
    exec (.crcUpdb .rx b) s = .next (s.immediate { s with crcRx := crcStep s.crcRx b } (.ok .none))

/-- R104: `CRC.UPD k, s` folds the bytes in order, none changes nothing, and splitting does not matter (two updates leave
what one leaves, but for the second answer). -/
def Obligations.CrcUpdateFoldsAndSplits : Prop :=
  (∀ a : Operands, decodeCmd ⟨0x03#8, a⟩ = .ok (.crcUpd .tx a.bytes) ∧
    decodeCmd ⟨0x23#8, a⟩ = .ok (.crcUpd .rx a.bytes)) ∧
  (∀ (s : State) (b : List Byte),
    exec (.crcUpd .tx b) s = .next (s.immediate { s with crcTx := b.foldl crcStep s.crcTx } (.ok .none)) ∧
    exec (.crcUpd .rx b) s = .next (s.immediate { s with crcRx := b.foldl crcStep s.crcRx } (.ok .none))) ∧
  ∀ (k : Engine) (a b : List Byte) (s : State), s.busy = false →
    ∃ t u : State, exec (.crcUpd k (a ++ b)) s = .next t ∧ execAll [.crcUpd k a, .crcUpd k b] s = .next u ∧
      u = { t with answers := .ok .none :: t.answers }

/-- R105, R108: `CRC.SUM k, s` loads and returns the checksum of `s`; `CRC.GET k` returns the running value and changes
none, and right after reset that is 0xFFFF. -/
def Obligations.CrcSumAndGet : Prop :=
  (∀ a : Operands, decodeCmd ⟨0x04#8, a⟩ = .ok (.crcSum .tx a.bytes) ∧
    decodeCmd ⟨0x24#8, a⟩ = .ok (.crcSum .rx a.bytes) ∧
    decodeCmd ⟨0x05#8, a⟩ = .ok (.crcGet .tx) ∧ decodeCmd ⟨0x25#8, a⟩ = .ok (.crcGet .rx)) ∧
  (∀ (s : State) (b : List Byte),
    exec (.crcSum .tx b) s = .next (s.immediate { s with crcTx := crc16 b } (.ok (.half (crc16 b)))) ∧
    exec (.crcSum .rx b) s = .next (s.immediate { s with crcRx := crc16 b } (.ok (.half (crc16 b))))) ∧
  (∀ s : State,
    exec (.crcGet .tx) s = .next (s.immediate s (.ok (.half s.crcTx))) ∧
    exec (.crcGet .rx) s = .next (s.immediate s (.ok (.half s.crcRx)))) ∧
  ∀ k : Engine, exec (.crcGet k) State.reset =
    .next { State.reset with done := true, answers := [.ok (.half 0xFFFF#16)] }

/-- R106: `CRC.APPEND s` loads instance `TX` and returns the bytes with their checksum behind them, low byte first. -/
def Obligations.CrcAppendAddsLittleEndian : Prop :=
  (∀ a : Operands, decodeCmd ⟨0x06#8, a⟩ = .ok (.crcAppend a.bytes)) ∧
  ∀ (s : State) (b : List Byte), exec (.crcAppend b) s = .next (s.immediate { s with crcTx := crc16 b }
    (.ok (.bytes (b ++ [(crc16 b).extractLsb' 0 8, (crc16 b).extractLsb' 8 8]))))

/-- R107: `CRC.VERIFY f`: too short under 2 bytes; else the checksum of all but the last two bytes is compared with them,
low byte first, and `CRC[RX]`, `CALCCRC`, `RECVCRC`, `CRC_OK` say how it went. -/
def Obligations.CrcVerifyComparesTrailer : Prop :=
  (∀ a : Operands, decodeCmd ⟨0x07#8, a⟩ = .ok (.crcVerify a.bytes)) ∧
  (∀ (s : State) (f : List Byte), f.length < 2 →
    exec (.crcVerify f) s = .next (s.immediate s (.error (.tooShort f.length)))) ∧
  ∀ (s : State) (f : List Byte) (x y : Byte),
    let computed := crc16 f
    let received := x.setWidth 16 ||| (y.setWidth 16 <<< 8)
    let t : State := { s with crcRx := computed, calccrc := computed, recvcrc := received, crcOk := decide (computed = received) }
    exec (.crcVerify (f ++ [x, y])) s =
      .next (s.immediate t (if computed = received then .ok .none else .error (.checksum computed received)))

/-- R111: any interleaving of operations on `TX` with operations on `RX` gives each instance the value it would have had
without the other's operations. -/
def Obligations.CrcInstancesIndependent : Prop :=
  ∀ (l : List Instr) (s : State), s.busy = false → (∀ i ∈ l, i.engine ≠ none) →
    ∃ t u v : State, execAll l s = .next t ∧
      execAll (l.filter (fun i => i.engine = some .tx)) s = .next u ∧
      execAll (l.filter (fun i => i.engine = some .rx)) s = .next v ∧
      t.crcTx = u.crcTx ∧ t.crcRx = v.crcRx

/-- R110 items 1 to 3 and 5 (an inference the spec marks as its own): linearity, zero, bijection, one-shot equals
incremental. -/
def Obligations.CrcAlgebra : Prop :=
  (∀ (c : Half) (b : Byte), crcStep c b = crcStep (c ^^^ b.setWidth 16) 0#8) ∧
  crcStep 0#16 0#8 = 0#16 ∧
  (∀ b : Byte, Function.Bijective (fun c : Half => crcStep c b)) ∧
  ∀ (k : Engine) (b : List Byte) (s : State), s.busy = false →
    ∃ t u : State, exec (.crcSum k b) s = .next t ∧ execAll [.crcReset k, .crcUpd k b, .crcGet k] s = .next u ∧
      t.crcTx = u.crcTx ∧ t.crcRx = u.crcRx ∧ t.answers.head? = u.answers.head?

/-- R110 item 4 (an inference the spec marks as its own): a sequence with its own checksum behind it folds to zero, and the
test for zero accepts the sequences that the comparison of R107 accepts. -/
def Obligations.CrcResidueZero : Prop :=
  (∀ s : List Byte, crcFold (s ++ le16Bytes (crc16 s)) 0xFFFF#16 = 0#16) ∧
  ∀ f : List Byte, 2 ≤ f.length → (crcFold f 0xFFFF#16 = 0#16 ↔ checksumHolds f)

/-! ### Field codec -/

/-- R5, R41, R82: the four byte orders, as numbers, and that each is undone by its inverse. -/
def Obligations.ByteOrderOfFields : Prop :=
  (∀ a b : Byte, (be16 a b).toNat = a.toNat * 2 ^ 8 + b.toNat ∧ (le16 a b).toNat = b.toNat * 2 ^ 8 + a.toNat ∧
    be16Bytes (be16 a b) = [a, b] ∧ le16Bytes (le16 a b) = [a, b]) ∧
  (∀ a b c d : Byte,
    (be32 a b c d).toNat = a.toNat * 2 ^ 24 + b.toNat * 2 ^ 16 + c.toNat * 2 ^ 8 + d.toNat ∧
    (le32 a b c d).toNat = d.toNat * 2 ^ 24 + c.toNat * 2 ^ 16 + b.toNat * 2 ^ 8 + a.toNat ∧
    be32Bytes (be32 a b c d) = [a, b, c, d] ∧ le32Bytes (le32 a b c d) = [a, b, c, d])

/-- R120: `TS.PACK`. -/
def Obligations.TimestampPack : Prop :=
  (∀ a : Operands, decodeCmd ⟨0x08#8, a⟩ = .ok (.tsPack a.time)) ∧
  ∀ (s : State) (year month day hour minute second : Nat),
    exec (.tsPack ⟨year, month, day, hour, minute, second⟩) s = .next (s.immediate s
      (if year < 2000 ∨ year > 2255 then .error (.argInvalid .year)
       else if month > 255 ∨ day > 255 ∨ hour > 255 ∨ minute > 255 ∨ second > 255 then .error (.argInvalid .field)
       else .ok (.bytes [BitVec.ofNat 8 (year - 2000), BitVec.ofNat 8 month, BitVec.ofNat 8 day, BitVec.ofNat 8 hour,
         BitVec.ofNat 8 minute, BitVec.ofNat 8 second])))

/-- R121: `TS.UNPACK`: too short under 6 bytes, else the six fields; what follows them is ignored. -/
def Obligations.TimestampUnpack : Prop :=
  (∀ a : Operands, decodeCmd ⟨0x09#8, a⟩ = .ok (.tsUnpack a.bytes)) ∧
  (∀ (s : State) (b : List Byte), b.length < 6 →
    exec (.tsUnpack b) s = .next (s.immediate s (.error (.tooShort b.length)))) ∧
  ∀ (s : State) (y mo d h mi se : Byte) (rest : List Byte),
    exec (.tsUnpack (y :: mo :: d :: h :: mi :: se :: rest)) s = .next (s.immediate s
      (.ok (.time ⟨2000 + y.toNat, mo.toNat, d.toNat, h.toNat, mi.toNat, se.toNat⟩)))

/-- R122 (an inference the spec marks as its own): packing and unpacking a timestamp undo each other. -/
def Obligations.TimestampRoundTrip : Prop :=
  (∀ s : List Byte, s.length = 6 → ∃ t, tsUnpack s = .ok t ∧ tsPack t = .ok s) ∧
  ∀ (t : Timestamp) (s : List Byte), tsPack t = .ok s → s.length = 6 ∧ tsUnpack s = .ok t

/-- R123: `ARC.UNPACK`: too short under 10 bytes or with 1 to 3 bytes left over; else the channel id, the start and one
32-bit sample for each four bytes, all little-endian. -/
def Obligations.ArchiveUnpack : Prop :=
  (∀ a : Operands, decodeCmd ⟨0x0A#8, a⟩ = .ok (.arcUnpack a.bytes)) ∧
  (∀ (s : State) (b : List Byte), b.length < 10 ∨ (b.length - 10) % 4 ≠ 0 →
    exec (.arcUnpack b) s = .next (s.immediate s (.error (.tooShort b.length)))) ∧
  ∀ (s : State) (c0 c1 c2 c3 y mo d h mi se : Byte) (samples : List (Byte × Byte × Byte × Byte)),
    exec (.arcUnpack ([c0, c1, c2, c3, y, mo, d, h, mi, se] ++ samples.flatMap (fun p => [p.1, p.2.1, p.2.2.1, p.2.2.2])))
      s = .next (s.immediate s (.ok (.archive (le32 c0 c1 c2 c3)
        ⟨2000 + y.toNat, mo.toNat, d.toNat, h.toNat, mi.toNat, se.toNat⟩
        (samples.map (fun p => le32 p.1 p.2.1 p.2.2.1 p.2.2.2)))))

/-- R125: `ENV.ENCODE`. -/
def Obligations.EnvelopeEncode : Prop :=
  (∀ a : Operands, decodeCmd ⟨0x0B#8, a⟩ = .ok (.envEncode a.word a.byte a.bytes a.half)) ∧
  ∀ (s : State) (addr : Word) (fn : Byte) (payload : List Byte) (id : Half),
    exec (.envEncode addr fn payload id) s = .next (s.immediate s
      (if payload.length > 245 then .error (.argInvalid .payloadLength)
       else .ok (.bytes ([addr.extractLsb' 24 8, addr.extractLsb' 16 8, addr.extractLsb' 8 8, addr.extractLsb' 0 8, fn,
         BitVec.ofNat 8 (10 + payload.length)] ++ payload ++ [id.extractLsb' 8 8, id.extractLsb' 0 8]))))

/-- R71, R72, R126 (R126 is an inference the spec marks as its own): an envelope and its checksum make a whole frame, whose
length byte counts it, whose fields read back, and which passes the check of R107. -/
def Obligations.RequestFrameIsWhole : Prop :=
  ∀ (s : State) (addr : Word) (fn : Byte) (payload : List Byte) (id : Half), s.busy = false → payload.length ≤ 245 →
    ∃ (env frame : List Byte) (t u v : State),
      exec (.envEncode addr fn payload id) s = .next t ∧ t.answers = .ok (.bytes env) :: s.answers ∧
      exec (.crcAppend env) t = .next u ∧ u.answers = .ok (.bytes frame) :: t.answers ∧
      exec (.crcVerify frame) u = .next v ∧ v.answers = .ok .none :: u.answers ∧
      frame.length = 10 + payload.length ∧ (byteAt frame 5).toNat = frame.length ∧ byteAt frame 4 = fn ∧
      be32At frame 0 = addr ∧ (frameFields frame).payload = payload ∧ be16At frame (frame.length - 4) = id ∧
      le16At frame (frame.length - 2) = crc16 env

/-- R127: `CHM.ENCODE`: the first bad index refuses the set; else bit `i` of the mask says whether `i + 1` is in it. -/
def Obligations.ChannelEncode : Prop :=
  (∀ a : Operands, decodeCmd ⟨0x0C#8, a⟩ = .ok (.chmEncode a.channels)) ∧
  (∀ s : State, exec (.chmEncode []) s = .next (s.immediate s (.error (.argInvalid .emptyChannelSet)))) ∧
  (∀ (s : State) (good rest : List Nat) (c : Nat), (∀ d ∈ good, 1 ≤ d ∧ d ≤ 32) → c < 1 ∨ c > 32 →
    exec (.chmEncode (good ++ c :: rest)) s = .next (s.immediate s
      (.error (.argInvalid (if c < 1 then .channelZero else .channelAbove))))) ∧
  ∀ (s : State) (l : List Nat), l ≠ [] → (∀ d ∈ l, 1 ≤ d ∧ d ≤ 32) →
    ∃ m : Word, exec (.chmEncode l) s = .next (s.immediate s (.ok (.word m))) ∧
      ∀ i, i < 32 → (m.getLsbD i = true ↔ i + 1 ∈ l)

/-- R128: `CHM.DECODE` lists the channels of the set bits in ascending order, and of an encoded set gives the set. -/
def Obligations.ChannelDecode : Prop :=
  (∀ a : Operands, decodeCmd ⟨0x0D#8, a⟩ = .ok (.chmDecode a.word)) ∧
  ∀ (s : State) (m : Word), ∃ l : List Nat,
    exec (.chmDecode m) s = .next (s.immediate s (.ok (.channels l))) ∧
    l.Pairwise (· < ·) ∧ (∀ n, n ∈ l ↔ 1 ≤ n ∧ n ≤ 32 ∧ m.getLsbD (n - 1) = true) ∧
    ∀ c : List Nat, chmEncode c = .ok m → ∀ n, n ∈ l ↔ n ∈ c

/-- R129: `PRM.WPACK`. -/
def Obligations.ParameterWritePayload : Prop :=
  (∀ a : Operands, decodeCmd ⟨0x0E#8, a⟩ = .ok (.prmWpack a.half a.bytes)) ∧
  ∀ (s : State) (code : Half) (value : List Byte),
    exec (.prmWpack code value) s = .next (s.immediate s
      (if value.length > 8 then .error (.argInvalid .valueLength)
       else .ok (.bytes ([code.extractLsb' 0 8, code.extractLsb' 8 8] ++ value ++
         List.replicate (8 - value.length) 0x00#8))))

/-- R167 (the operation `ERR.DECODE`) and R213: the name is the table's, and the default table is the list of nine names
from 0 on, every other byte `unknown`. -/
def Obligations.ErrorCodeNames : Prop :=
  (∀ a : Operands, decodeCmd ⟨0x0F#8, a⟩ = .ok (.errDecode a.byte)) ∧
  (∀ (s : State) (c : Byte), exec (.errDecode c) s = .next (s.immediate s (.ok (.name (errName s.params c))))) ∧
  ∀ p : Params, p.errTable = Config.defaultErrTable →
    errName p 0x00#8 = .unknown ∧ errName p 0x01#8 = .illegalFunction ∧ errName p 0x02#8 = .invalidBitmask ∧
    errName p 0x03#8 = .invalidLength ∧ errName p 0x04#8 = .missingParameter ∧ errName p 0x05#8 = .illegalAccess ∧
    errName p 0x06#8 = .invalidParameterValue ∧ errName p 0x07#8 = .missingArchive ∧
    errName p 0x08#8 = .tooLongPeriod ∧ ∀ c : Byte, 9 ≤ c.toNat → errName p c = .unknown

/-! ### Binding, message ids, issue -/

/-- R150: `BIND addr`. -/
def Obligations.BindSetsAddress : Prop :=
  (∀ a : Operands, decodeCmd ⟨0x10#8, a⟩ = .ok (.bind a.word)) ∧
  ∀ (s : State) (addr : Word),
    exec (.bind addr) s = .next (s.immediate { s with addr := addr, addrV := true, mid := 0x0000#16 } (.ok .none))

/-- R151, R60: `REBIND` changes no register of the unit; the transport is new, with empty streams, no deadline and empty
capture, and what the replaced one still had to deliver is gone. What the new one will bring is the model's list of links
(log 19). -/
def Obligations.RebindKeepsRegisters : Prop :=
  (∀ a : Operands, decodeCmd ⟨0x11#8, a⟩ = .ok .rebind) ∧
  ∀ s : State, ∃ (t : Transport) (l : List Link),
    exec .rebind s = .next (s.immediate { s with transport := t, links := l } (.ok .none)) ∧
    t.outBuf = [] ∧ t.line = [] ∧ t.capTx = [] ∧ t.capRx = [] ∧ t.deadline = none ∧ t.now = s.transport.now ∧
    ((s.links = [] ∧ l = [] ∧ t.rx = [] ∧ t.tx = []) ∨ ∃ k, s.links = k :: l ∧ t.rx = k.rx ∧ t.tx = k.tx)

/-- R152: `MID.NEXT` adds 1 modulo 65536 and skips 0; the ids repeat with period 65535 and no shorter one. -/
def Obligations.MessageIdAllocation : Prop :=
  (∀ a : Operands, decodeCmd ⟨0x12#8, a⟩ = .ok .midNext) ∧
  (∀ s : State, ∃ id : Half,
    exec .midNext s = .next (s.immediate { s with mid := id } (.ok (.half id))) ∧
    id.toNat = if (s.mid.toNat + 1) % 65536 = 0 then 1 else (s.mid.toNat + 1) % 65536) ∧
  ∀ m : Half, m ≠ 0#16 → Nat.repeat nextMid 65535 m = m ∧ ∀ n, 0 < n → n < 65535 → Nat.repeat nextMid n m ≠ m

/-- R156, with the row of R175 for `IDLE`: the issue checks of `EXEC` in their order, each refusal before any effect, and
the acceptance. -/
def Obligations.ExecIssueChecks : Prop :=
  (∀ a : Operands, a.unbuildable = none → decodeCmd ⟨0x13#8, a⟩ = .ok (.execute a.byte (.built a.bytes))) ∧
  (∀ (a : Operands) (why : ArgFault), a.unbuildable = some why →
    decodeCmd ⟨0x13#8, a⟩ = .ok (.execute a.byte (.unbuildable why))) ∧
  ∀ (s : State) (fn : Byte) (p : Payload),
    (s.busy = true → exec (.execute fn p) s = .next { s with answers := .err .busyRefused :: s.answers }) ∧
    (s.busy = false → s.addrV = false → exec (.execute fn p) s = .next (s.errorEnd .notBound)) ∧
    (s.busy = false → s.addrV = true → ∀ why, p = .unbuildable why →
      exec (.execute fn p) s = .next (s.errorEnd (.argInvalid why))) ∧
    (s.busy = false → s.addrV = true → ∀ b, p = .built b → b.length > 245 →
      exec (.execute fn p) s = .next (s.errorEnd (.argInvalid .payloadLength))) ∧
    (s.busy = false → s.addrV = true → ∀ b, p = .built b → b.length ≤ 245 →
      exec (.execute fn p) s = .next
        { s with
          busy := true, done := false, addrHit := false, crcOk := false, isErr := false, fnOk := false, skips := 0
          seq := .build, op := some (.execute fn b) })

/-- R180, R182: the issue of `DISCOVER`, which needs no address, and of `MODEL`, which needs one. -/
def Obligations.DiscoverAndModelIssue : Prop :=
  (∀ a : Operands, decodeCmd ⟨0x14#8, a⟩ = .ok .discover ∧ decodeCmd ⟨0x15#8, a⟩ = .ok .model) ∧
  ∀ s : State,
    (s.busy = true → exec .discover s = .next { s with answers := .err .busyRefused :: s.answers } ∧
      exec .model s = .next { s with answers := .err .busyRefused :: s.answers }) ∧
    (s.busy = false → s.addrV = false → exec .model s = .next (s.errorEnd .notBound)) ∧
    (s.busy = false → exec .discover s = .next
      { s with
        busy := true, done := false, addrHit := false, crcOk := false, isErr := false, fnOk := false, skips := 0
        seq := .build, op := some .discover }) ∧
    (s.busy = false → s.addrV = true → exec .model s = .next
      { s with
        busy := true, done := false, addrHit := false, crcOk := false, isErr := false, fnOk := false, skips := 0
        seq := .build, op := some .model })

/-- R270: while `BUSY = 1` every command, reserved or not, is answered `BUSY_REFUSED` to its issuer and changes nothing
else. -/
def Obligations.BusyRefusesEveryCommand : Prop :=
  (∀ (i : Instr) (s : State), i.isHost = true → s.busy = true →
    exec i s = .next { s with answers := .err .busyRefused :: s.answers }) ∧
  ∀ (s : State) (c : CmdWrite), s.busy = true → s.landing = some (.cmd c) →
    step s = .next { s with inputs := s.inputs.tail, answers := .err .busyRefused :: s.answers }

/-- R86: exactly the codes with `op` 0x00 or 0x16 to 0x1F, with a bit of [7:6] set, or with `k = 1` on an operation that
takes no `k`, are reserved; while the unit is idle one is refused with `ILLEGAL_CMD` and changes only `KIND` and `DONE`. -/
def Obligations.ReservedCommandCodes : Prop :=
  (∀ c : CmdWrite, (∃ e, decodeCmd c = .error e) ↔
    (c.code.toNat % 32 = 0 ∨ c.code.toNat % 32 ≥ 0x16 ∨ c.code.toNat ≥ 64 ∨
      (c.code.toNat / 32 % 2 = 1 ∧ c.code.toNat % 32 ≥ 6))) ∧
  ∀ (s : State) (c : CmdWrite) (e : DecodeError), s.landing = some (.cmd c) → decodeCmd c = .error e →
    (s.busy = true → step s = .next { s with inputs := s.inputs.tail, answers := .err .busyRefused :: s.answers }) ∧
    (s.busy = false → s.seq = .idle → s.op = none → step s = .next
      { s with
        inputs := s.inputs.tail, kind := .illegalCmd, done := true
        answers := .err (.illegalCmd c.code) :: s.answers })

/-! ### The rows of the sequencer (R175) -/

/-- R157, R158 for `EXEC`, and the same row of `MODEL` and `DISCOVER` (R182, R180): the request code, the id, the envelope
with its checksum in TXBUF; `DISCOVER` loads its 11 bytes as they are. Bytes behind the frame stay. -/
def Obligations.BuildRow : Prop :=
  (∀ (s : State) (fn : Byte) (p : List Byte), s.landing = none → s.seq = .build → s.txbuf.wf → p.length ≤ 245 →
    (s.op = some (.execute fn p) ∨ (s.op = some .model ∧ fn = s.params.modelFn ∧ p = s.params.modelPayload)) →
    ∃ (env : List Byte) (m : Memory),
      env = be32Bytes s.addr ++ [fn, BitVec.ofNat 8 (10 + p.length)] ++ p ++ be16Bytes (nextMid s.mid) ∧
      (∀ i, m.get? i = if i < 10 + p.length then (env ++ le16Bytes (crc16 env))[i]? else s.txbuf.get? i) ∧
      step s = .next
        { s.ticked with
          reqfn := fn, mid := nextMid s.mid, crcTx := crc16 env, txbuf := m
          txlen := BitVec.ofNat 8 (10 + p.length), seq := .txPrep }) ∧
  ∀ s : State, s.landing = none → s.seq = .build → s.txbuf.wf → s.op = some .discover →
    s.params.discReq.length = 11 →
    ∃ m : Memory, (∀ i, m.get? i = if i < 11 then s.params.discReq[i]? else s.txbuf.get? i) ∧
      step s = .next { s.ticked with txbuf := m, txlen := 11#8, seq := .txPrep }

/-- R159 with R45 to R47: `PrepWrite` renews the deadline; a write answered in time puts the whole frame behind what is
buffered; a flush answered in time puts every buffered byte on the line, and `LogReq` follows; a write or flush that fails
ends the operation with `TIMEOUT` or `IO_FAIL`, the line having seen none, part or all of what was to go out. The model's
choices in it: answers and what they show (log 10), the clock (log 11), `IDX` after a failure (log 17), the capture buffer
that `PrepWrite` resets (log 27). -/
def Obligations.SendRows : Prop :=
  (∀ s : State, s.landing = none → s.seq = .txPrep → step s = .next
    { s.ticked with
      calls := .prepWrite :: s.calls, idx := 0#8, seq := .txWrite
      transport := { s.transport with deadline := some (s.transport.now + s.params.timeout), capTx := [] } }) ∧
  (∀ (s : State) (a : TxAnswer) (n : Transport), s.landing = none → s.transport.nextTx = (a, n) →
    a.outcome = .done → s.transport.inTime a.took →
    (s.seq = .txWrite → ∃ u : Transport,
      step s = .next
        { s.ticked with calls := .txWrite s.txBytes :: s.calls, transport := u, idx := s.txlen, seq := .txFlush } ∧
      s.transport.line <+: u.line ∧ u.line ++ u.outBuf = s.transport.line ++ s.transport.outBuf ++ s.txBytes ∧
      u.rx = s.transport.rx ∧ u.tx = n.tx ∧ u.deadline = s.transport.deadline ∧ u.now = s.transport.now + a.took) ∧
    (s.seq = .txFlush → ∃ u : Transport,
      step s = .next { s.ticked with calls := .logReq :: .txFlush :: s.calls, transport := u, seq := .rxPrep } ∧
      u.line = s.transport.line ++ s.transport.outBuf ∧ u.outBuf = [] ∧
      u.rx = s.transport.rx ∧ u.tx = n.tx ∧ u.now = s.transport.now + a.took)) ∧
  ∀ (s : State) (a : TxAnswer) (n : Transport) (e : IoErr), s.landing = none → s.transport.nextTx = (a, n) →
    ((e = .timedOut ∧ (a.outcome = .timedOut ∨ ¬ s.transport.inTime a.took)) ∨
      ∃ x, e = .failed x ∧ a.outcome = .failed x ∧ s.transport.inTime a.took) →
    (s.seq = .txWrite → ∃ (u : Transport) (k : Nat),
      step s = .next (({ s.ticked with calls := .txWrite s.txBytes :: s.calls, transport := u } : State).errorEnd
        (match e with | .timedOut => .timeout .txWrite | .failed x => .ioFail .txWrite x)) ∧
      u.line = s.transport.line ++ (s.transport.outBuf ++ s.txBytes).take k ∧ u.rx = s.transport.rx) ∧
    (s.seq = .txFlush → ∃ (u : Transport) (k : Nat),
      step s = .next (({ s.ticked with calls := .txFlush :: s.calls, transport := u } : State).errorEnd
        (match e with | .timedOut => .timeout .txFlush | .failed x => .ioFail .txFlush x)) ∧
      u.line = s.transport.line ++ s.transport.outBuf.take k ∧ u.rx = s.transport.rx)

/-- R161, R162: `PrepRead` and the cleared counts; the 6 header bytes, in time, go to RXBUF, then `L < 11` on the unsigned
byte ends the operation with `INVALID_FRAME(L)`, whatever the address, else `REM` is `L - 6`. The model's choices in it:
`IDX` is 6 behind the header (log 17), the clock and what is in time (log 11), and `PrepRead` resets the capture buffer of
the read direction only (log 27). -/
def Obligations.HeaderRows : Prop :=
  (∀ s : State, s.landing = none → s.seq = .rxPrep → step s = .next
    { s.ticked with
      calls := .prepRead :: s.calls, rxlen := 0#8, idx := 0#8, seq := .rxHdr
      transport := { s.transport with deadline := some (s.transport.now + s.params.timeout), capRx := [] } }) ∧
  ∀ (s : State) (fn : Byte) (p : List Byte) (h : Timed) (rest : List RxEvent), s.landing = none → s.seq = .rxHdr →
    s.op = some (.execute fn p) → s.rxbuf.wf → h.length = 6 → s.transport.rx = arrivals h ++ rest →
    s.transport.inTime (waits h) →
    ∃ (u : Transport) (m : Memory),
      u.rx = rest ∧ u.now = s.transport.now + waits h ∧ u.deadline = s.transport.deadline ∧
      u.line = s.transport.line ∧ u.outBuf = s.transport.outBuf ∧
      (∀ i, m.get? i = if i < 6 then (octets h)[i]? else s.rxbuf.get? i) ∧
      ((byteAt (octets h) 5).toNat < 11 → step s = .next
        (({ s.ticked with
            calls := .rxRead 6 :: s.calls, transport := u, rxbuf := m, rxlen := 6#8, idx := 6#8 } : State).errorEnd
          (.invalidFrame (byteAt (octets h) 5)))) ∧
      (11 ≤ (byteAt (octets h) 5).toNat → step s = .next
        { s.ticked with
          calls := .rxRead 6 :: s.calls, transport := u, rxbuf := m, rxlen := 6#8, idx := 6#8
          rem := BitVec.ofNat 8 ((byteAt (octets h) 5).toNat - 6), seq := .rxBody })

/-- R163: the `REM` bytes that remain, under the deadline already set, go to RXBUF behind the header. The clock and what is
in time are the model's choice (log 11). -/
def Obligations.RemainderRow : Prop :=
  ∀ (s : State) (fn : Byte) (p : List Byte) (r : Timed) (rest : List RxEvent), s.landing = none → s.seq = .rxBody →
    s.op = some (.execute fn p) → s.rxbuf.wf → s.rem.toNat ≤ 249 → r.length = s.rem.toNat →
    s.transport.rx = arrivals r ++ rest → s.transport.inTime (waits r) →
    ∃ (u : Transport) (m : Memory),
      u.rx = rest ∧ u.now = s.transport.now + waits r ∧ u.deadline = s.transport.deadline ∧
      u.line = s.transport.line ∧ u.outBuf = s.transport.outBuf ∧
      (∀ i, m.get? i = if 6 ≤ i ∧ i < 6 + s.rem.toNat then (octets r)[i - 6]? else s.rxbuf.get? i) ∧
      step s = .next
        { s.ticked with
          calls := .rxRead s.rem.toNat :: s.calls, transport := u, rxbuf := m
          rxlen := 6#8 + s.rem, idx := 6#8 + s.rem, seq := .rxFilt }

/-- R49, R50, R232: a read that has some of its bytes and then meets silence, a byte that would come after the deadline, or
a failure ends the operation with `TIMEOUT` or `IO_FAIL` at that step; the bytes consumed are lost, RXBUF and the counts
stay. The clause on a late byte rests on the model's clock (logs 8, 9, 11). -/
def Obligations.FailedReadLosesItsBytes : Prop :=
  ∀ (s : State) (n : Nat) (got : Timed) (ev : RxEvent) (rest : List RxEvent), s.landing = none →
    s.readSize = some n → got.length < n → s.transport.rx = arrivals got ++ ev :: rest →
    s.transport.inTime (waits got) →
    (ev = .silence → ∃ u : Transport, u.rx = rest ∧
      step s = .next (({ s.ticked with calls := .rxRead n :: s.calls, transport := u } : State).errorEnd
        (.timeout s.seq))) ∧
    (∀ gap x, ev = .fail gap x → s.transport.inTime (waits got + gap) → ∃ u : Transport, u.rx = rest ∧
      step s = .next (({ s.ticked with calls := .rxRead n :: s.calls, transport := u } : State).errorEnd
        (.ioFail s.seq x))) ∧
    (∀ gap b, ev = .arrive gap b → ¬ s.transport.inTime (waits got + gap) → ∃ (u : Transport) (g : Nat),
      u.rx = .arrive g b :: rest ∧
      step s = .next (({ s.ticked with calls := .rxRead n :: s.calls, transport := u } : State).errorEnd
        (.timeout s.seq)))

/-! ### Frames: the twelve instructions FN.ERROR, FN.READ_CURRENT, FN.WRITE_CURRENT, FN.READ_TIME, FN.WRITE_TIME,
FN.READ_ARCHIVE, FN.READ_PULSE_WEIGHT, FN.WRITE_PULSE_WEIGHT, FN.LINE_TEST, FN.READ_SETTINGS, FN.WRITE_SETTINGS,
FN.INPUT_TEST, which are the `i` with `i.frameOf = some (fn, f)` -/

/-- R164, R165: the address filter on a frame in hand, for each of the twelve frame instructions. -/
def Obligations.FrameAddressFilter : Prop :=
  ∀ (i : Instr) (fn : Byte) (f : FrameFields) (s : State) (g : Byte) (p : List Byte), i.frameOf = some (fn, f) →
    s.op = some (.execute g p) → s.seq = .rxFilt →
    (f.addr = s.addr → exec i s = .next { s with addrHit := true, respfn := fn, seq := .chkCrc }) ∧
    (f.addr ≠ s.addr → (∀ m, s.params.maxSkips = some m → s.skips + 1 ≤ m) → exec i s = .next
      { s with addrHit := false, skips := s.skips + 1, seq := .rxPrep }) ∧
    (∀ m, f.addr ≠ s.addr → s.params.maxSkips = some m → m < s.skips + 1 → exec i s = .next
      (({ s with addrHit := false, skips := s.skips + 1 } : State).errorEnd (.skipLimit (s.skips + 1))))

/-- R166 with R72 and R107: the checksum check on a frame in hand, error frames too, for each of the twelve frame
instructions. -/
def Obligations.FrameChecksumCheck : Prop :=
  ∀ (i : Instr) (fn : Byte) (f : FrameFields) (s : State) (g : Byte) (p : List Byte), i.frameOf = some (fn, f) →
    s.op = some (.execute g p) → s.seq = .chkCrc →
    (crc16 (checkedBytes fn f) = f.checksum → exec i s = .next
      { s with
        crcRx := f.checksum, calccrc := f.checksum, recvcrc := f.checksum, crcOk := true, seq := .chkErr }) ∧
    (crc16 (checkedBytes fn f) ≠ f.checksum → exec i s = .next
      (({ s with
          crcRx := crc16 (checkedBytes fn f), calccrc := crc16 (checkedBytes fn f), recvcrc := f.checksum
          crcOk := false } : State).errorEnd (.checksum (crc16 (checkedBytes fn f)) f.checksum)))

/-- R167, R201: an error frame in hand ends the operation with its first payload byte as the code, and that code's name;
each of the other eleven frame instructions goes on to the function match. -/
def Obligations.ErrorFrameTest : Prop :=
  (∀ (f : FrameFields) (s : State) (g c : Byte) (p rest : List Byte), s.op = some (.execute g p) → s.seq = .chkErr →
    f.payload = c :: rest → exec (.fnError f) s = .next
      (({ s with isErr := true, errcode := c } : State).errorEnd (.deviceError c (errName s.params c)))) ∧
  ∀ (i : Instr) (fn : Byte) (f : FrameFields) (s : State) (g : Byte) (p : List Byte), i.frameOf = some (fn, f) →
    fn ≠ 0x00#8 → s.op = some (.execute g p) → s.seq = .chkErr → exec i s = .next { s with seq := .chkFn }

/-- R168, R169: the function match on a frame in hand and the return of the body, payload and message id, for each of the
twelve frame instructions. The model's choice in it: of the transport, `LogResp` can change the capture buffer of the read
direction only (log 27). -/
def Obligations.FunctionMatchAndReturn : Prop :=
  ∀ (i : Instr) (fn : Byte) (f : FrameFields) (s : State) (g : Byte) (p : List Byte), i.frameOf = some (fn, f) →
    s.op = some (.execute g p) → s.seq = .chkFn →
    (fn = s.reqfn → ∃ u : Transport, u = { s.transport with capRx := u.capRx } ∧ exec i s = .next
      (({ s with
          calls := .logResp :: s.calls, transport := u, fnOk := true, respmid := f.id
          bodylen := BitVec.ofNat 8 (f.payload.length + 2), paylen := BitVec.ofNat 8 f.payload.length } : State).okEnd
        (.bytes (f.payload ++ [f.id.extractLsb' 8 8, f.id.extractLsb' 0 8])))) ∧
    (fn ≠ s.reqfn → exec i s = .next (s.errorEnd (.protoMismatch s.reqfn fn)))

/-- R54, R275: a frame that comes while the unit has none in hand waits on the RX stream behind what stands there, for each
of the twelve frame instructions. The model's reading of a frame as an instruction (log 5). -/
def Obligations.FrameElsewhereWaits : Prop :=
  ∀ (i : Instr) (fn : Byte) (f : FrameFields) (s : State), i.frameOf = some (fn, f) → s.holdsFrame = false →
    exec i s = .next { s with
      transport := { s.transport with rx := s.transport.rx ++ (frameBytes fn f).map (RxEvent.arrive 0) } }

/-- R200, R215 (R200 is an inference the spec marks as its own): for EVERY function byte, assigned or not, a held frame
from the bound address ends `EXEC c` as the rule says: wrong checksum, error frame, the code of the request, a third
code. -/
def Obligations.HeldFrameOfAnyCode : Prop :=
  ∀ (s : State) (c fn : Byte) (p : List Byte) (f : FrameFields), s.inputs = [] → s.op = some (.execute c p) →
    s.seq = .rxFilt → s.reqfn = c → s.rxBytes = frameBytes fn f → f.wellFormed = true → f.addr = s.addr →
    (crc16 (checkedBytes fn f) ≠ f.checksum → ∃ t, runs 2 s = .next t ∧ t.busy = false ∧
      t.answers = .err (.checksum (crc16 (checkedBytes fn f)) f.checksum) :: s.answers) ∧
    (crc16 (checkedBytes fn f) = f.checksum →
      (fn = 0x00#8 → ∃ t, runs 3 s = .next t ∧ t.busy = false ∧ t.isErr = true ∧
        t.answers = .err (.deviceError t.errcode (errName s.params t.errcode)) :: s.answers) ∧
      (fn ≠ 0x00#8 → fn = c → ∃ t, runs 4 s = .next t ∧ t.busy = false ∧ t.fnOk = true ∧
        t.answers = .ok (.bytes (f.payload ++ be16Bytes f.id)) :: s.answers) ∧
      (fn ≠ 0x00#8 → fn ≠ c → ∃ t, runs 4 s = .next t ∧ t.busy = false ∧
        t.answers = .err (.protoMismatch c fn) :: s.answers))

/-! ### Whole operations and whole-machine rules -/

/-- R175: the table of control transfers of `EXEC`, every row, and that nothing else can follow: first the two rows of
`IDLE`, where it is issued. -/
def Obligations.SequencerTransitions : Prop :=
  (∀ (s : State) (fn : Byte) (p : Payload), s.Inv → s.seq = .idle →
    ∃ t : State, exec (.execute fn p) s = .next t ∧
      ((s.addrV = true ∧ ∃ b, p = .built b ∧ b.length ≤ 245) → t.seq = .build ∧ t.busy = true ∧ t.answers = s.answers) ∧
      (¬ (s.addrV = true ∧ ∃ b, p = .built b ∧ b.length ≤ 245) →
        t.seq = .idle ∧ t.busy = false ∧ ∃ e, t.kind = e.kind ∧ t.answers = .err e :: s.answers)) ∧
  ∀ (s : State) (fn : Byte) (p : List Byte), s.Inv → s.landing = none → s.op = some (.execute fn p) →
    ∃ t : State, step s = .next t ∧
      let goes (q : Seq) : Prop := t.seq = q ∧ t.busy = true ∧ t.op = s.op ∧ t.answers = s.answers
      let ends (r : Result) : Prop :=
        t.seq = .idle ∧ t.busy = false ∧ t.op = none ∧ t.done = true ∧ t.kind = r.kind ∧ t.answers = r :: s.answers
      let failsIo : Prop := ends (.err (.timeout s.seq)) ∨ ∃ x, ends (.err (.ioFail s.seq x))
      let byte4 : Byte := s.rxbuf.read .rx 4
      match s.seq with
      | .idle => False
      | .build => goes .txPrep
      | .txPrep => goes .txWrite
      | .txWrite => goes .txFlush ∨ failsIo
      | .txFlush => goes .rxPrep ∨ failsIo
      | .rxPrep => goes .rxHdr
      | .rxHdr => (goes .rxBody ∧ 11 ≤ (t.rxbuf.read .rx 5).toNat) ∨
          ((t.rxbuf.read .rx 5).toNat < 11 ∧ ends (.err (.invalidFrame (t.rxbuf.read .rx 5)))) ∨ failsIo
      | .rxBody => goes .rxFilt ∨ failsIo
      | .rxFilt => if be32At s.rxBytes 0 = s.addr then goes .chkCrc
          else (goes .rxPrep ∧ ∀ m, s.params.maxSkips = some m → t.skips ≤ m) ∨
            ((∃ m, s.params.maxSkips = some m ∧ m < t.skips) ∧ ends (.err (.skipLimit t.skips)))
      | .chkCrc => (goes .chkErr ∧ t.calccrc = t.recvcrc) ∨
          (t.calccrc ≠ t.recvcrc ∧ ends (.err (.checksum t.calccrc t.recvcrc)))
      | .chkErr => if byte4 = 0x00#8 then
            t.errcode = s.rxbuf.read .rx 6 ∧ ends (.err (.deviceError t.errcode (errName s.params t.errcode)))
          else goes .chkFn
      | .chkFn => if byte4 = s.reqfn then ∃ body, ends (.ok (.bytes body)) ∧ body.length = t.bodylen.toNat ∧ 3 ≤ body.length
          else ends (.err (.protoMismatch s.reqfn byte4))

/-- R155 to R169 and R271, R272 as one exchange: `EXEC fn, p` is written to CMD, the transport takes the request in time,
then any number of foreign frames within the bound and an answer with the request's function code come, each whole frame
within one deadline. The model's choices in it: what a step is (log 3), how the host acts (log 6), the transport's answers
(log 10), the clock, on which the deadline itself is in time (log 11). -/
def Obligations.ExecExchange : Prop :=
  ∀ (s : State) (fn : Byte) (p : List Byte) (w : Bool) (a b : TxAnswer) (tx : List TxAnswer) (foreign : List Timed)
    (good : Timed) (f : FrameFields) (rest : List RxEvent),
    s.Inv → s.busy = false → s.addrV = true → p.length ≤ 245 →
    s.inputs = [⟨0, w, .cmd ⟨0x13#8, executeArgs fn (.built p)⟩⟩] →
    s.transport.tx = a :: b :: tx → a.outcome = .done → b.outcome = .done → a.took + b.took ≤ s.params.timeout →
    s.transport.rx = foreign.flatMap arrivals ++ arrivals good ++ rest →
    (∀ x ∈ foreign, isFrame (octets x) ∧ waits x ≤ s.params.timeout ∧ be32At (octets x) 0 ≠ s.addr) →
    (∀ m, s.params.maxSkips = some m → foreign.length ≤ m) →
    waits good ≤ s.params.timeout → octets good = frameBytes fn f → f.wellFormed = true → f.payload ≠ [] →
    f.addr = s.addr → fn ≠ 0x00#8 → crc16 (checkedBytes fn f) = f.checksum →
    ∃ t : State, runs (12 + 4 * foreign.length) s = .next t ∧
      t.answers = .ok (.bytes (f.payload ++ be16Bytes f.id)) :: s.answers ∧
      t.transport.line = s.transport.line ++ s.transport.outBuf ++ requestFrame s.addr fn p (nextMid s.mid) ∧
      t.transport.outBuf = [] ∧ t.transport.rx = rest ∧ t.transport.tx = tx ∧
      t.addr = s.addr ∧ t.addrV = true ∧ t.mid = nextMid s.mid ∧ t.reqfn = fn ∧
      t.txlen = BitVec.ofNat 8 (10 + p.length) ∧ t.rxlen = f.len ∧ t.skips = foreign.length ∧
      t.seq = .idle ∧ t.op = none ∧ t.busy = false ∧ t.done = true ∧ t.kind = .ok ∧
      t.addrHit = true ∧ t.crcOk = true ∧ t.isErr = false ∧ t.fnOk = true ∧
      t.respfn = fn ∧ t.respmid = f.id ∧ t.bodylen = BitVec.ofNat 8 (f.payload.length + 2) ∧
      t.paylen = BitVec.ofNat 8 f.payload.length ∧ t.crcRx = f.checksum ∧ t.calccrc = f.checksum ∧
      t.recvcrc = f.checksum ∧ t.errcode = s.errcode ∧
      t.calls.count .logReq = s.calls.count .logReq + 1 ∧ t.calls.count .logResp = s.calls.count .logResp + 1

/-- R180, R216 as one exchange: the 11 bytes go out as they are, a response of the fixed size with a right checksum
binds and returns the address at the fixed offset and restarts the ids; one with a wrong checksum changes no binding.
The model's choices in it: what a step is (log 3), how the host acts (log 6), the transport's answers (log 10), the
clock, on which the deadline itself is in time (log 11). -/
def Obligations.DiscoverExchange : Prop :=
  ∀ (s : State) (w : Bool) (x : Operands) (a b : TxAnswer) (tx : List TxAnswer) (r : Timed) (rest : List RxEvent),
    s.Inv → s.busy = false → s.inputs = [⟨0, w, .cmd ⟨0x14#8, x⟩⟩] →
    s.transport.tx = a :: b :: tx → a.outcome = .done → b.outcome = .done → a.took + b.took ≤ s.params.timeout →
    s.transport.rx = arrivals r ++ rest → r.length = s.params.discRespLen → waits r ≤ s.params.timeout →
    ∃ t : State, runs 8 s = .next t ∧
      t.transport.line = s.transport.line ++ s.transport.outBuf ++ s.params.discReq ∧ t.transport.rx = rest ∧
      t.busy = false ∧ t.done = true ∧ t.seq = .idle ∧ t.reqfn = s.reqfn ∧ t.crcTx = s.crcTx ∧
      t.rxlen.toNat = s.params.discRespLen ∧ t.addrHit = false ∧ t.isErr = false ∧ t.fnOk = false ∧
      (checksumHolds (octets r) → t.crcOk = true ∧ t.addr = be32At (octets r) s.params.discAddrOff ∧ t.addrV = true ∧
        t.mid = 0x0000#16 ∧ t.answers = .ok (.word t.addr) :: s.answers) ∧
      (¬ checksumHolds (octets r) → t.crcOk = false ∧ t.addr = s.addr ∧ t.addrV = s.addrV ∧ t.mid = s.mid ∧
        t.answers = .err (.checksum t.calccrc t.recvcrc) :: s.answers)

/-- R182 as one exchange, without and with `MODEL_VERIFY`: foreign responses of the fixed size are skipped, the first
from the bound address is returned whole, after the checksum check if that is asked for. The model's choices in it:
what a step is (log 3), how the host acts (log 6), the transport's answers (log 10), the clock, on which the deadline
itself is in time (log 11). -/
def Obligations.ModelExchange : Prop :=
  ∀ (s : State) (w : Bool) (x : Operands) (a b : TxAnswer) (tx : List TxAnswer) (foreign : List Timed) (r : Timed)
    (rest : List RxEvent),
    s.Inv → s.busy = false → s.addrV = true → s.inputs = [⟨0, w, .cmd ⟨0x15#8, x⟩⟩] →
    s.transport.tx = a :: b :: tx → a.outcome = .done → b.outcome = .done → a.took + b.took ≤ s.params.timeout →
    s.transport.rx = foreign.flatMap arrivals ++ arrivals r ++ rest →
    (∀ y ∈ foreign, y.length = s.params.modelRespLen ∧ waits y ≤ s.params.timeout ∧ be32At (octets y) 0 ≠ s.addr) →
    (∀ m, s.params.maxSkips = some m → foreign.length ≤ m) →
    r.length = s.params.modelRespLen → waits r ≤ s.params.timeout → be32At (octets r) 0 = s.addr →
    ∃ t : State, runs ((if s.params.modelVerify then 9 else 8) + 3 * foreign.length) s = .next t ∧
      t.transport.line = s.transport.line ++ s.transport.outBuf ++
        requestFrame s.addr s.params.modelFn s.params.modelPayload (nextMid s.mid) ∧
      t.transport.rx = rest ∧ t.reqfn = s.params.modelFn ∧ t.mid = nextMid s.mid ∧ t.addr = s.addr ∧
      t.skips = foreign.length ∧ t.busy = false ∧ t.done = true ∧ t.seq = .idle ∧ t.addrHit = true ∧
      t.isErr = false ∧ t.fnOk = false ∧ (4 < r.length → t.respfn = byteAt (octets r) 4) ∧
      (s.params.modelVerify = false → t.crcOk = false ∧ t.crcRx = s.crcRx ∧
        t.answers = .ok (.bytes (octets r)) :: s.answers) ∧
      (s.params.modelVerify = true → checksumHolds (octets r) → t.crcOk = true ∧
        t.answers = .ok (.bytes (octets r)) :: s.answers) ∧
      (s.params.modelVerify = true → ¬ checksumHolds (octets r) → t.crcOk = false ∧
        t.answers = .err (.checksum t.calccrc t.recvcrc) :: s.answers)

/-- R278 (an inference the spec marks as its own): no step ends an `EXEC 0x00` with a success. -/
def Obligations.ErrorCodeRequestNeverSucceeds : Prop :=
  ∀ (s t : State) (p : List Byte) (v : Value), s.Inv → s.landing = none → s.op = some (.execute 0x00#8 p) →
    step s = .next t → t.answers ≠ .ok v :: s.answers

/-- R176, R274: with no bound, foreign frames that keep arriving within the deadline keep the receive loop running, as
many as there are. What a step is (log 3) and the clock, on which the deadline itself is in time (log 11), are the
model's choices. -/
def Obligations.ForeignFramesKeepTheLoop : Prop :=
  ∀ (s : State) (fn : Byte) (p : List Byte) (foreign : List Timed) (rest : List RxEvent), s.rxbuf.wf →
    s.inputs = [] → s.op = some (.execute fn p) → s.seq = .rxPrep → s.params.maxSkips = none →
    s.transport.rx = foreign.flatMap arrivals ++ rest →
    (∀ x ∈ foreign, isFrame (octets x) ∧ waits x ≤ s.params.timeout ∧ be32At (octets x) 0 ≠ s.addr) →
    ∃ t : State, runs (4 * foreign.length) s = .next t ∧ t.seq = .rxPrep ∧ t.op = s.op ∧ t.busy = s.busy ∧
      t.skips = s.skips + foreign.length ∧ t.transport.rx = rest ∧ t.answers = s.answers ∧ t.mid = s.mid

/-- R176 ("a claim that every `EXEC` ends needs ... a `MAX_SKIPS`"): with the bound `m`, an operation in flight has ended
after at most `4 * m + 12` steps and one more for each coming act of the host, whatever the line does. What a step is
(log 3), and that each coming act takes one (log 6), are the model's choices. -/
def Obligations.BoundedSkipsMeansTermination : Prop :=
  ∀ (s : State) (m : Nat), s.Inv → s.busy = true → s.params.maxSkips = some m →
    ∃ (n : Nat) (t : State), n ≤ 4 * m + 12 + s.inputs.length ∧ runs n s = .next t ∧ t.busy = false

/-- The invariant holds right after reset. -/
def Obligations.InvariantAtReset : Prop := State.reset.Inv

/-- Every step keeps the invariant, and no step changes a parameter (R4, R10). -/
def Obligations.StepKeepsInvariant : Prop :=
  ∀ s t : State, s.Inv → step s = .next t → t.Inv ∧ t.params = s.params

/-- R230 (no operation stops the unit): from a state that meets the invariant no step ends in a fault or a refusal of the
model. -/
def Obligations.UnitNeverStops : Prop :=
  ∀ s : State, s.Inv → ∃ t : State, step s = .next t

/-- R11: `ADDR` is written only by `BIND` and by a `DISCOVER` that succeeds, both set `ADDR_V`, and only hardware reset
clears `ADDR_V`. -/
def Obligations.AddressWriters : Prop :=
  ∀ s t : State, s.Inv → step s = .next t → (∀ cut, s.landing ≠ some (.reset cut)) →
    (t.addr = s.addr ∧ t.addrV = s.addrV) ∨
    (t.addrV = true ∧
      ((∃ c, s.landing = some (.cmd c) ∧ decodeCmd c = .ok (.bind t.addr) ∧ t.answers = .ok .none :: s.answers) ∨
        (s.landing = none ∧ s.op = some .discover ∧ t.answers = .ok (.word t.addr) :: s.answers)))

/-- R12: `MID` is advanced only by the allocation step, in `MID.NEXT` and once in the build of `EXEC` and `MODEL`, and set
back to 0 only by `BIND`, a successful `DISCOVER` and hardware reset. -/
def Obligations.MessageIdWriters : Prop :=
  ∀ s t : State, s.Inv → step s = .next t →
    t.mid = s.mid ∨
    (t.mid = nextMid s.mid ∧
      ((∃ c, s.landing = some (.cmd c) ∧ decodeCmd c = .ok .midNext ∧ t.answers = .ok (.half t.mid) :: s.answers) ∨
        (s.landing = none ∧ s.seq = .build ∧ ((∃ fn p, s.op = some (.execute fn p)) ∨ s.op = some .model)))) ∨
    (t.mid = 0x0000#16 ∧
      ((∃ cut, s.landing = some (.reset cut)) ∨ (∃ c a, s.landing = some (.cmd c) ∧ decodeCmd c = .ok (.bind a)) ∨
        (s.landing = none ∧ s.op = some .discover ∧ t.answers = .ok (.word t.addr) :: s.answers)))

/-- R230, R240, R24: an operation in flight goes on with no result, or ends with exactly one, and then `KIND` is its tag,
`BUSY` 0, `DONE` 1 and `SEQ` `IDLE`. -/
def Obligations.OneResultPerOperation : Prop :=
  ∀ s t : State, s.Inv → s.landing = none → step s = .next t →
    (t.answers = s.answers ∧ t.busy = s.busy ∧ t.op = s.op) ∨
    (s.busy = true ∧ ∃ r : Result, t.answers = r :: s.answers ∧ t.kind = r.kind ∧ t.busy = false ∧ t.done = true ∧
      t.seq = .idle ∧ t.op = none)

/-- R52: `LogReq` comes exactly with a successful flush, `LogResp` exactly with a success result of a sequenced operation,
each once; neither on an error path. -/
def Obligations.LogEventsOnSuccessOnly : Prop :=
  ∀ s t : State, s.Inv → s.landing = none → step s = .next t →
    ∃ new : List TifCall, t.calls = new ++ s.calls ∧
      new.count .logReq ≤ 1 ∧ new.count .logResp ≤ 1 ∧
      (.logReq ∈ new ↔ s.seq = .txFlush ∧ t.seq = .rxPrep) ∧
      (.logResp ∈ new ↔ ∃ v, t.answers = .ok v :: s.answers)

/-- R55: between the write of a request and every read of its response stands a flush: that the newest write or flush is
a flush behind `TX_FLUSH` holds at reset and is kept by every step, and every read happens there. -/
def Obligations.FlushBeforeEveryRead : Prop :=
  (State.reset.seq.receiving = true → lastOutput State.reset.calls = some .txFlush) ∧
  ∀ s t : State, s.Inv → (s.seq.receiving = true → lastOutput s.calls = some .txFlush) → step s = .next t →
    (t.seq.receiving = true → lastOutput t.calls = some .txFlush) ∧
    (∀ n, s.calls.count (.rxRead n) < t.calls.count (.rxRead n) → lastOutput s.calls = some .txFlush)

/-- R260, R262: hardware reset puts every register of the unit at its reset value whatever the unit was doing and gives no
result; the transport, the line and what the host knows stay. When it lands inside a write, a flush or a read that the unit
is blocked in, any front of what was to go out is on the line and any number of the bytes that had come are lost, as U20
says with U6 and U9. The model's choices in it: that the buffers list no byte then (log 20), where a reset can land (log
6), what a cut primitive leaves buffered and how long the next event still waits (log 28), the clock (log 11). -/
def Obligations.HardwareReset : Prop :=
  ∀ (s : State) (cut : Option Cut), s.landing = some (.reset cut) →
    ∃ (u : Transport) (cs : List TifCall),
      step s = .next
        { State.reset with
          params := s.params, transport := u, links := s.links, inputs := s.inputs.tail
          answers := s.answers, calls := cs, drawn := s.drawn } ∧
      (cut = none → u = s.transport ∧ cs = s.calls) ∧
      (s.seq ≠ .txWrite → s.seq ≠ .txFlush → s.readSize = none → u = s.transport ∧ cs = s.calls) ∧
      ∀ c : Cut, cut = some c →
        (s.seq = .txWrite → cs = .txWrite s.txBytes :: s.calls ∧ u.rx = s.transport.rx ∧
          u.line = s.transport.line ++ (s.transport.outBuf ++ s.txBytes.take c.accepted).take c.visible ∧
          u.line ++ u.outBuf = s.transport.line ++ s.transport.outBuf ++ s.txBytes.take c.accepted) ∧
        (s.seq = .txFlush → cs = .txFlush :: s.calls ∧ u.rx = s.transport.rx ∧
          u.line = s.transport.line ++ s.transport.outBuf.take c.visible ∧
          u.line ++ u.outBuf = s.transport.line ++ s.transport.outBuf) ∧
        ∀ n, s.readSize = some n → cs = .rxRead n :: s.calls ∧
          u.line = s.transport.line ∧ u.outBuf = s.transport.outBuf ∧
          ∀ (got : Timed) (rest : List RxEvent), s.transport.rx = arrivals got ++ rest →
            s.transport.inTime (waits got) → got.length < n → c.consumed = got.length →
            u.rx = rest.modifyHead (sooner (u.now - (s.transport.now + waits got)))

/-- R28: the values after hardware reset. Of the contents of the buffers, which the rule leaves unspecified, nothing is
said. -/
def Obligations.ResetValues : Prop :=
  let r := State.reset
  r.crcTx = 0xFFFF#16 ∧ r.crcRx = 0xFFFF#16 ∧ r.addr = 0x00000000#32 ∧ r.addrV = false ∧ r.mid = 0x0000#16 ∧
  r.reqfn = 0x00#8 ∧ r.txlen = 0#8 ∧ r.rxlen = 0#8 ∧ r.seq = .idle ∧ r.idx = 0#8 ∧ r.rem = 0#8 ∧ r.skips = 0 ∧
  r.busy = false ∧ r.done = false ∧ r.addrHit = false ∧ r.crcOk = false ∧ r.isErr = false ∧ r.fnOk = false ∧
  r.kind = .ok ∧ r.errcode = 0#8 ∧ r.respfn = 0#8 ∧ r.respmid = 0#16 ∧ r.bodylen = 0#8 ∧ r.paylen = 0#8 ∧
  r.calccrc = 0#16 ∧ r.recvcrc = 0#16

/-! ### Encoding and fetching -/

/-- A step runs the instruction its words decode to: a command the host writes, and the frame an `EXEC` has in hand; the
model's fetching (logs 2, 5, 6). -/
def Obligations.StepRunsDecodedInstruction : Prop :=
  (∀ (s : State) (c : CmdWrite) (i : Instr), s.landing = some (.cmd c) → decodeCmd c = .ok i →
    step s = exec i { s with inputs := s.inputs.tail }) ∧
  (∀ (s : State) (i : Instr), s.landing = none → s.holdsFrame = true → decodeFrame s.rxBytes = .ok i →
    step s = exec i s.ticked) ∧
  ∀ s : State, s.landing = none → s.seq = .idle → step s = .next s.ticked

/-- R70, R80, R84, R85: the words of every well-formed instruction decode to it, host operations with every operand and
frames with every field. -/
def Obligations.DecodeEncodeAgree : Prop :=
  ∀ i : Instr, i.wellFormed = true → decode (encode i) = .ok i

/-- R70, R71, R80: words that decode to a frame instruction are that instruction's own words, so two different frames never
decode alike; and a byte sequence that is no frame, or whose length byte is not its length, is refused. -/
def Obligations.FrameDecodeIsExact : Prop :=
  (∀ (b : List Byte) (i : Instr), decodeFrame b = .ok i → encode i = .frame b ∧ i.wellFormed = true) ∧
  (∀ b : List Byte, b.length < 10 ∨ (byteAt b 5).toNat ≠ b.length → ∀ i, decodeFrame b ≠ .ok i) ∧
  ∀ b : List Byte, 10 ≤ b.length → (byteAt b 5).toNat = b.length →
    ((∃ i, decodeFrame b = .ok i) ↔
      (byteAt b 4).toNat ∈ [0x00, 0x01, 0x03, 0x04, 0x05, 0x06, 0x07, 0x08, 0x09, 0x0A, 0x0B, 0x19])

/-- Words written out from R84, R85 and from R70, R80, one or more of each family. How `decodeTableWord` reads a word of 8
bits (0x01 and 0x08 as commands and not as frames, operands zero or empty, 0x26 as neither) is the model's choice (log 2). -/
def Obligations.WordsWrittenOut : Prop :=
  decodeTableWord 8 0b00000001 = some (.crcReset .tx) ∧ decodeTableWord 8 0b00100001 = some (.crcReset .rx) ∧
  decodeTableWord 8 0b00001000 = some (.tsPack ⟨0, 0, 0, 0, 0, 0⟩) ∧
  decodeTableWord 8 0b00010000 = some (.bind 0x00000000#32) ∧
  decodeTableWord 8 0b00010011 = some (.execute 0x00#8 (.built [])) ∧
  decodeTableWord 8 0b00100110 = none ∧
  decode (.cmd ⟨0x0D#8, { Operands.zero with word := 0x80000005#32 }⟩) = .ok (.chmDecode 0x80000005#32) ∧
  decode (.frame [0x00#8, 0x12#8, 0x34#8, 0x56#8, 0x04#8, 0x0A#8, 0x00#8, 0x01#8, 0xDE#8, 0x80#8]) =
    .ok (.fnReadTime ⟨0x00123456#32, 0x0A#8, [], 0x0001#16, 0x80DE#16⟩) ∧
  decode (.frame [0x00#8, 0x12#8, 0x34#8, 0x56#8, 0x00#8, 0x0B#8, 0x02#8, 0x00#8, 0x02#8, 0xD1#8, 0xF5#8]) =
    .ok (.fnError ⟨0x00123456#32, 0x0B#8, [0x02#8], 0x0002#16, 0xF5D1#16⟩) ∧
  decode (.frame [0x00#8, 0x12#8, 0x34#8, 0x56#8, 0x19#8, 0x0A#8, 0x00#8, 0x0A#8, 0x99#8, 0x2B#8]) =
    .ok (.fnInputTest ⟨0x00123456#32, 0x0A#8, [], 0x000A#16, 0x2B99#16⟩)

/-- R25, R231: what the host reads at each register number, the bits of `FLAGS`, the codes of `KIND` and `SEQ`. That a
number above 0x13 gives no value, so that none reads `SKIPS`, is the model's choice (log 24). -/
def Obligations.RegisterMap : Prop :=
  ∀ s : State,
    s.readReg 0x00 = none ∧ (∀ n, 0x14 ≤ n → s.readReg n = none) ∧
    (∃ w : Word, s.readReg 0x01 = some w ∧ w.getLsbD 0 = s.busy ∧ w.getLsbD 1 = s.done ∧ w.getLsbD 2 = s.addrV ∧
      w.getLsbD 3 = s.addrHit ∧ w.getLsbD 4 = s.crcOk ∧ w.getLsbD 5 = s.isErr ∧ w.getLsbD 6 = s.fnOk ∧
      ∀ i, 7 ≤ i → w.getLsbD i = false) ∧
    (s.readReg 0x02 = some (match s.kind with
      | .ok => 0 | .timeout => 1 | .ioFail => 2 | .tooShort => 3 | .checksum => 4 | .invalidFrame => 5
      | .protoMismatch => 6 | .deviceError => 7 | .argInvalid => 8 | .notBound => 9 | .busyRefused => 10
      | .skipLimit => 11 | .illegalCmd => 12)) ∧
    s.readReg 0x03 = some s.addr ∧ s.readReg 0x04 = some (s.mid.setWidth 32) ∧
    s.readReg 0x05 = some (s.reqfn.setWidth 32) ∧ s.readReg 0x06 = some (s.crcTx.setWidth 32) ∧
    s.readReg 0x07 = some (s.crcRx.setWidth 32) ∧ s.readReg 0x08 = some (s.errcode.setWidth 32) ∧
    s.readReg 0x09 = some (s.respfn.setWidth 32) ∧ s.readReg 0x0A = some (s.respmid.setWidth 32) ∧
    s.readReg 0x0B = some (s.bodylen.setWidth 32) ∧ s.readReg 0x0C = some (s.paylen.setWidth 32) ∧
    s.readReg 0x0D = some (s.calccrc.setWidth 32) ∧ s.readReg 0x0E = some (s.recvcrc.setWidth 32) ∧
    s.readReg 0x0F = some (s.txlen.setWidth 32) ∧ s.readReg 0x10 = some (s.rxlen.setWidth 32) ∧
    (s.readReg 0x11 = some (match s.seq with
      | .idle => 0 | .build => 1 | .txPrep => 2 | .txWrite => 3 | .txFlush => 4 | .rxPrep => 5 | .rxHdr => 6
      | .rxBody => 7 | .rxFilt => 8 | .chkCrc => 9 | .chkErr => 10 | .chkFn => 11)) ∧
    s.readReg 0x12 = some (s.idx.setWidth 32) ∧ s.readReg 0x13 = some (s.rem.setWidth 32)
end

