-- ==== Sys2Proof/Laws/Operands.lean ====
section
/-! SUPPORT. Byte order is a round trip, and a frame's bytes and its fields determine each other (R70, R82). -/

namespace Sys2Proof.Machine

/-- A byte appended at the low end counts 256 times what stands above it. -/
theorem toNat_append_byte {w : Nat} (x : BitVec w) (b : Byte) : (x ++ b).toNat = x.toNat * 256 + b.toNat := by
  rw [BitVec.toNat_append, ← Nat.shiftLeft_add_eq_or_of_lt b.isLt, Nat.shiftLeft_eq]

theorem toNat_byteOf {w : Nat} (v : BitVec w) (i : Nat) : (v.extractLsb' i 8).toNat = v.toNat / 2 ^ i % 256 := by
  rw [BitVec.extractLsb'_toNat, Nat.shiftRight_eq_div_pow]

theorem toNat_hi (v : Half) : (hi v).toNat = v.toNat / 256 % 256 := toNat_byteOf v 8
theorem toNat_lo (v : Half) : (lo v).toNat = v.toNat % 256 := by
  rw [lo, toNat_byteOf, Nat.pow_zero, Nat.div_one]
theorem toNat_be16 (a b : Byte) : (be16 a b).toNat = a.toNat * 256 + b.toNat := toNat_append_byte a b
theorem toNat_be32 (a b c d : Byte) :
    (be32 a b c d).toNat = ((a.toNat * 256 + b.toNat) * 256 + c.toNat) * 256 + d.toNat := by
  rw [be32]
  erw [toNat_append_byte, toNat_append_byte, toNat_append_byte]

@[simp] theorem be16_bytes (v : Half) : be16 (hi v) (lo v) = v := by
  apply BitVec.eq_of_toNat_eq
  have := v.isLt
  rw [toNat_be16, toNat_hi, toNat_lo]
  omega

@[simp] theorem le16_bytes (v : Half) : le16 (lo v) (hi v) = v := be16_bytes v

@[simp] theorem hi_be16 (a b : Byte) : hi (be16 a b) = a := by
  apply BitVec.eq_of_toNat_eq
  have := a.isLt; have := b.isLt
  rw [toNat_hi, toNat_be16]
  omega

@[simp] theorem lo_be16 (a b : Byte) : lo (be16 a b) = b := by
  apply BitVec.eq_of_toNat_eq
  have := a.isLt; have := b.isLt
  rw [toNat_lo, toNat_be16]
  omega

@[simp] theorem lo_le16 (a b : Byte) : lo (le16 a b) = a := lo_be16 b a
@[simp] theorem hi_le16 (a b : Byte) : hi (le16 a b) = b := hi_be16 b a

theorem be32_bytes (v : Word) :
    be32 (v.extractLsb' 24 8) (v.extractLsb' 16 8) (v.extractLsb' 8 8) (v.extractLsb' 0 8) = v := by
  apply BitVec.eq_of_toNat_eq
  have := v.isLt
  rw [toNat_be32, toNat_byteOf, toNat_byteOf, toNat_byteOf, toNat_byteOf]
  omega

theorem le32_bytes (v : Word) :
    le32 (v.extractLsb' 0 8) (v.extractLsb' 8 8) (v.extractLsb' 16 8) (v.extractLsb' 24 8) = v := be32_bytes v

theorem be32Bytes_be32 (a b c d : Byte) : be32Bytes (be32 a b c d) = [a, b, c, d] := by
  have := a.isLt; have := b.isLt; have := c.isLt; have := d.isLt
  have e : ∀ (i : Nat) (x : Byte), (be32 a b c d).toNat / 2 ^ i % 256 = x.toNat →
      (be32 a b c d).extractLsb' i 8 = x := fun i x h => BitVec.eq_of_toNat_eq ((toNat_byteOf _ i).trans h)
  have hn := toNat_be32 a b c d
  simp only [be32Bytes]
  rw [e 24 a (by omega), e 16 b (by omega), e 8 c (by omega), e 0 d (by omega)]

@[simp] theorem be32Bytes_length (v : Word) : (be32Bytes v).length = 4 := rfl
@[simp] theorem le32Bytes_length (v : Word) : (le32Bytes v).length = 4 := rfl
@[simp] theorem be16Bytes_length (v : Half) : (be16Bytes v).length = 2 := rfl
@[simp] theorem le16Bytes_length (v : Half) : (le16Bytes v).length = 2 := rfl

theorem byteAt_eq {s : List Byte} {i : Nat} (h : i < s.length) : byteAt s i = s[i] := by
  simp [byteAt, List.getD_eq_getElem?_getD, h]

theorem byteAt_append_left {s t : List Byte} {i : Nat} (h : i < s.length) : byteAt (s ++ t) i = byteAt s i := by
  simp [byteAt, List.getD_eq_getElem?_getD, List.getElem?_append_left h]

theorem byteAt_append_right {s t : List Byte} {i : Nat} (h : s.length ≤ i) :
    byteAt (s ++ t) i = byteAt t (i - s.length) := by
  simp [byteAt, List.getD_eq_getElem?_getD, List.getElem?_append_right h]

theorem byteAt_append_at {s : List Byte} (t : List Byte) {n : Nat} (h : s.length = n) (i : Nat) :
    byteAt (s ++ t) (n + i) = byteAt t i := by
  rw [byteAt_append_right (by omega), show n + i - s.length = i by omega]

theorem byteAt_take {s : List Byte} {i n : Nat} (h : i < n) : byteAt (s.take n) i = byteAt s i := by
  simp [byteAt, List.getD_eq_getElem?_getD, h]

@[simp] theorem frameBytes_length (fn : Byte) (f : FrameFields) : (frameBytes fn f).length = 10 + f.payload.length := by
  simp [frameBytes]; omega

@[simp] theorem be32At_frameBytes (fn : Byte) (f : FrameFields) : be32At (frameBytes fn f) 0 = f.addr := by
  simp [be32At, frameBytes, be32Bytes, byteAt, be32_bytes]

@[simp] theorem frameBytes_fn (fn : Byte) (f : FrameFields) : byteAt (frameBytes fn f) 4 = fn := by
  simp [frameBytes, be32Bytes, byteAt]

@[simp] theorem frameBytes_len (fn : Byte) (f : FrameFields) : byteAt (frameBytes fn f) 5 = f.len := by
  simp [frameBytes, be32Bytes, byteAt]

/-- The header and payload of a frame, its message id and its checksum, as three pieces. -/
theorem frameBytes_split (fn : Byte) (f : FrameFields) :
    frameBytes fn f = (be32Bytes f.addr ++ [fn, f.len] ++ f.payload) ++ (be16Bytes f.id ++ le16Bytes f.checksum) := by
  simp [frameBytes]

@[simp] theorem be16At_frameBytes (fn : Byte) (f : FrameFields) :
    be16At (frameBytes fn f) (f.payload.length + 6) = f.id := by
  have hl : (be32Bytes f.addr ++ [fn, f.len] ++ f.payload).length = f.payload.length + 6 := by simp; omega
  rw [frameBytes_split, be16At, byteAt_append_at _ hl, ← Nat.add_zero (f.payload.length + 6),
    byteAt_append_at _ hl]
  exact be16_bytes f.id

@[simp] theorem le16At_frameBytes (fn : Byte) (f : FrameFields) :
    le16At (frameBytes fn f) (f.payload.length + 8) = f.checksum := by
  have hl : (be32Bytes f.addr ++ [fn, f.len] ++ f.payload).length = f.payload.length + 6 := by simp; omega
  rw [frameBytes_split, le16At, show f.payload.length + 8 + 1 = f.payload.length + 6 + 3 by omega,
    show f.payload.length + 8 = f.payload.length + 6 + 2 by omega, byteAt_append_at _ hl, byteAt_append_at _ hl]
  simp [byteAt, be16Bytes, le16Bytes]

/-- Reading the fields back from a frame's bytes (R82). -/
@[simp] theorem frameFields_frameBytes (fn : Byte) (f : FrameFields) : frameFields (frameBytes fn f) = f := by
  have h1 : (frameBytes fn f).length - 4 = f.payload.length + 6 := by simp; omega
  have h2 : (frameBytes fn f).length - 2 = f.payload.length + 8 := by simp; omega
  have h3 : (frameBytes fn f).length - 10 = f.payload.length := by simp
  cases f with
  | mk addr len payload id checksum =>
    simp only [frameFields, h1, h2, h3, be32At_frameBytes, frameBytes_len, be16At_frameBytes, le16At_frameBytes]
    simp [frameBytes, be32Bytes]

theorem bytes_pair {s : List Byte} {i : Nat} (h : i + 2 = s.length) : s.drop i = [byteAt s i, byteAt s (i + 1)] := by
  rw [List.drop_eq_getElem_cons (by omega), List.drop_eq_getElem_cons (by omega),
    List.drop_eq_nil_of_le (by omega), byteAt_eq (by omega), byteAt_eq (by omega)]

/-- Any sequence of 10 bytes or more is the frame of its own fields (R70). -/
theorem frameBytes_frameFields {s : List Byte} (h : 10 ≤ s.length) :
    frameBytes (byteAt s 4) (frameFields s) = s := by
  obtain ⟨a, b, c, d, fn, l, rest, rfl⟩ : ∃ a b c d fn l rest, s = a :: b :: c :: d :: fn :: l :: rest := by
    match s, h with
    | a :: b :: c :: d :: fn :: l :: rest, _ => exact ⟨a, b, c, d, fn, l, rest, rfl⟩
  simp only [List.length_cons] at h
  obtain ⟨n, hn⟩ : ∃ n, rest.length = n + 4 := ⟨rest.length - 4, by omega⟩
  have e1 : be16At (a :: b :: c :: d :: fn :: l :: rest) (n + 6) = be16At rest n := by
    simp [be16At, byteAt]
  have e2 : le16At (a :: b :: c :: d :: fn :: l :: rest) (n + 8) = le16At rest (n + 2) := by
    simp [le16At, byteAt]
  have e3 : be32Bytes (be32At (a :: b :: c :: d :: fn :: l :: rest) 0) = [a, b, c, d] := by
    simp [be32At, byteAt, be32Bytes_be32]
  have tail : rest.drop n = [byteAt rest n, byteAt rest (n + 1)] ++ [byteAt rest (n + 2), byteAt rest (n + 3)] := by
    have h1 : n < rest.length := by omega
    rw [List.drop_eq_getElem_cons h1, List.drop_eq_getElem_cons (by omega), bytes_pair (i := n + 1 + 1) (by omega),
      byteAt_eq h1, byteAt_eq (by omega : n + 1 < rest.length)]
    rfl
  have all : rest.take n ++ rest.drop n = rest := List.take_append_drop n rest
  rw [tail] at all
  simp only [frameBytes, frameFields, List.length_cons, hn, e3]
  rw [show n + 4 + 1 + 1 + 1 + 1 + 1 + 1 - 4 = n + 6 by omega, show n + 4 + 1 + 1 + 1 + 1 + 1 + 1 - 2 = n + 8 by omega,
    show n + 4 + 1 + 1 + 1 + 1 + 1 + 1 - 10 = n by omega, e1, e2]
  simp only [be16At, le16At, be16Bytes, le16Bytes, hi_be16, lo_be16, lo_le16, hi_le16]
  conv_rhs => rw [← all]
  simp [byteAt]

end Sys2Proof.Machine
end

