-- ==== Sys2Proof/Laws/State.lean ====
section
/-! SUPPORT. One lemma per field per shared update of State, so that no proof unfolds a record update. -/

namespace Sys2Proof.Machine

variable (s : State)

section Ret
variable (v : Value)
@[simp] theorem State.ret_addr : (s.ret v).addr = s.addr := rfl
@[simp] theorem State.ret_addrV : (s.ret v).addrV = s.addrV := rfl
@[simp] theorem State.ret_mid : (s.ret v).mid = s.mid := rfl
@[simp] theorem State.ret_reqfn : (s.ret v).reqfn = s.reqfn := rfl
@[simp] theorem State.ret_crcTx : (s.ret v).crcTx = s.crcTx := rfl
@[simp] theorem State.ret_crcRx : (s.ret v).crcRx = s.crcRx := rfl
@[simp] theorem State.ret_txbuf : (s.ret v).txbuf = s.txbuf := rfl
@[simp] theorem State.ret_txlen : (s.ret v).txlen = s.txlen := rfl
@[simp] theorem State.ret_rxbuf : (s.ret v).rxbuf = s.rxbuf := rfl
@[simp] theorem State.ret_rxlen : (s.ret v).rxlen = s.rxlen := rfl
@[simp] theorem State.ret_seq : (s.ret v).seq = s.seq := rfl
@[simp] theorem State.ret_idx : (s.ret v).idx = s.idx := rfl
@[simp] theorem State.ret_rem : (s.ret v).rem = s.rem := rfl
@[simp] theorem State.ret_skips : (s.ret v).skips = s.skips := rfl
@[simp] theorem State.ret_busy : (s.ret v).busy = s.busy := rfl
@[simp] theorem State.ret_done : (s.ret v).done = true := rfl
@[simp] theorem State.ret_addrHit : (s.ret v).addrHit = s.addrHit := rfl
@[simp] theorem State.ret_crcOk : (s.ret v).crcOk = s.crcOk := rfl
@[simp] theorem State.ret_isErr : (s.ret v).isErr = s.isErr := rfl
@[simp] theorem State.ret_fnOk : (s.ret v).fnOk = s.fnOk := rfl
@[simp] theorem State.ret_kind : (s.ret v).kind = .ok := rfl
@[simp] theorem State.ret_errcode : (s.ret v).errcode = s.errcode := rfl
@[simp] theorem State.ret_respfn : (s.ret v).respfn = s.respfn := rfl
@[simp] theorem State.ret_respmid : (s.ret v).respmid = s.respmid := rfl
@[simp] theorem State.ret_bodylen : (s.ret v).bodylen = s.bodylen := rfl
@[simp] theorem State.ret_paylen : (s.ret v).paylen = s.paylen := rfl
@[simp] theorem State.ret_calccrc : (s.ret v).calccrc = s.calccrc := rfl
@[simp] theorem State.ret_recvcrc : (s.ret v).recvcrc = s.recvcrc := rfl
@[simp] theorem State.ret_op : (s.ret v).op = s.op := rfl
@[simp] theorem State.ret_params : (s.ret v).params = s.params := rfl
@[simp] theorem State.ret_transport : (s.ret v).transport = s.transport := rfl
@[simp] theorem State.ret_links : (s.ret v).links = s.links := rfl
@[simp] theorem State.ret_inputs : (s.ret v).inputs = s.inputs := rfl
@[simp] theorem State.ret_answers : (s.ret v).answers = .ok v :: s.answers := rfl
@[simp] theorem State.ret_calls : (s.ret v).calls = s.calls := rfl
@[simp] theorem State.ret_drawn : (s.ret v).drawn = s.drawn := rfl
end Ret

section Finish
variable (v : Value)
@[simp] theorem State.finish_addr : (s.finish v).addr = s.addr := rfl
@[simp] theorem State.finish_addrV : (s.finish v).addrV = s.addrV := rfl
@[simp] theorem State.finish_mid : (s.finish v).mid = s.mid := rfl
@[simp] theorem State.finish_reqfn : (s.finish v).reqfn = s.reqfn := rfl
@[simp] theorem State.finish_crcTx : (s.finish v).crcTx = s.crcTx := rfl
@[simp] theorem State.finish_crcRx : (s.finish v).crcRx = s.crcRx := rfl
@[simp] theorem State.finish_txbuf : (s.finish v).txbuf = s.txbuf := rfl
@[simp] theorem State.finish_txlen : (s.finish v).txlen = s.txlen := rfl
@[simp] theorem State.finish_rxbuf : (s.finish v).rxbuf = s.rxbuf := rfl
@[simp] theorem State.finish_rxlen : (s.finish v).rxlen = s.rxlen := rfl
@[simp] theorem State.finish_seq : (s.finish v).seq = .idle := rfl
@[simp] theorem State.finish_idx : (s.finish v).idx = s.idx := rfl
@[simp] theorem State.finish_rem : (s.finish v).rem = s.rem := rfl
@[simp] theorem State.finish_skips : (s.finish v).skips = s.skips := rfl
@[simp] theorem State.finish_busy : (s.finish v).busy = false := rfl
@[simp] theorem State.finish_done : (s.finish v).done = true := rfl
@[simp] theorem State.finish_addrHit : (s.finish v).addrHit = s.addrHit := rfl
@[simp] theorem State.finish_crcOk : (s.finish v).crcOk = s.crcOk := rfl
@[simp] theorem State.finish_isErr : (s.finish v).isErr = s.isErr := rfl
@[simp] theorem State.finish_fnOk : (s.finish v).fnOk = s.fnOk := rfl
@[simp] theorem State.finish_kind : (s.finish v).kind = .ok := rfl
@[simp] theorem State.finish_errcode : (s.finish v).errcode = s.errcode := rfl
@[simp] theorem State.finish_respfn : (s.finish v).respfn = s.respfn := rfl
@[simp] theorem State.finish_respmid : (s.finish v).respmid = s.respmid := rfl
@[simp] theorem State.finish_bodylen : (s.finish v).bodylen = s.bodylen := rfl
@[simp] theorem State.finish_paylen : (s.finish v).paylen = s.paylen := rfl
@[simp] theorem State.finish_calccrc : (s.finish v).calccrc = s.calccrc := rfl
@[simp] theorem State.finish_recvcrc : (s.finish v).recvcrc = s.recvcrc := rfl
@[simp] theorem State.finish_op : (s.finish v).op = none := rfl
@[simp] theorem State.finish_params : (s.finish v).params = s.params := rfl
@[simp] theorem State.finish_transport : (s.finish v).transport = s.transport := rfl
@[simp] theorem State.finish_links : (s.finish v).links = s.links := rfl
@[simp] theorem State.finish_inputs : (s.finish v).inputs = s.inputs := rfl
@[simp] theorem State.finish_answers : (s.finish v).answers = .ok v :: s.answers := rfl
@[simp] theorem State.finish_calls : (s.finish v).calls = s.calls := rfl
@[simp] theorem State.finish_drawn : (s.finish v).drawn = s.drawn := rfl
end Finish

section Raise
variable (e : Err)
@[simp] theorem State.raise_addr : (s.raise e).addr = s.addr := rfl
@[simp] theorem State.raise_addrV : (s.raise e).addrV = s.addrV := rfl
@[simp] theorem State.raise_mid : (s.raise e).mid = s.mid := rfl
@[simp] theorem State.raise_reqfn : (s.raise e).reqfn = s.reqfn := rfl
@[simp] theorem State.raise_crcTx : (s.raise e).crcTx = s.crcTx := rfl
@[simp] theorem State.raise_crcRx : (s.raise e).crcRx = s.crcRx := rfl
@[simp] theorem State.raise_txbuf : (s.raise e).txbuf = s.txbuf := rfl
@[simp] theorem State.raise_txlen : (s.raise e).txlen = s.txlen := rfl
@[simp] theorem State.raise_rxbuf : (s.raise e).rxbuf = s.rxbuf := rfl
@[simp] theorem State.raise_rxlen : (s.raise e).rxlen = s.rxlen := rfl
@[simp] theorem State.raise_seq : (s.raise e).seq = .idle := rfl
@[simp] theorem State.raise_idx : (s.raise e).idx = s.idx := rfl
@[simp] theorem State.raise_rem : (s.raise e).rem = s.rem := rfl
@[simp] theorem State.raise_skips : (s.raise e).skips = s.skips := rfl
@[simp] theorem State.raise_busy : (s.raise e).busy = false := rfl
@[simp] theorem State.raise_done : (s.raise e).done = true := rfl
@[simp] theorem State.raise_addrHit : (s.raise e).addrHit = s.addrHit := rfl
@[simp] theorem State.raise_crcOk : (s.raise e).crcOk = s.crcOk := rfl
@[simp] theorem State.raise_isErr : (s.raise e).isErr = s.isErr := rfl
@[simp] theorem State.raise_fnOk : (s.raise e).fnOk = s.fnOk := rfl
@[simp] theorem State.raise_kind : (s.raise e).kind = e.kind := rfl
@[simp] theorem State.raise_errcode : (s.raise e).errcode = s.errcode := rfl
@[simp] theorem State.raise_respfn : (s.raise e).respfn = s.respfn := rfl
@[simp] theorem State.raise_respmid : (s.raise e).respmid = s.respmid := rfl
@[simp] theorem State.raise_bodylen : (s.raise e).bodylen = s.bodylen := rfl
@[simp] theorem State.raise_paylen : (s.raise e).paylen = s.paylen := rfl
@[simp] theorem State.raise_calccrc : (s.raise e).calccrc = s.calccrc := rfl
@[simp] theorem State.raise_recvcrc : (s.raise e).recvcrc = s.recvcrc := rfl
@[simp] theorem State.raise_op : (s.raise e).op = none := rfl
@[simp] theorem State.raise_params : (s.raise e).params = s.params := rfl
@[simp] theorem State.raise_transport : (s.raise e).transport = s.transport := rfl
@[simp] theorem State.raise_links : (s.raise e).links = s.links := rfl
@[simp] theorem State.raise_inputs : (s.raise e).inputs = s.inputs := rfl
@[simp] theorem State.raise_answers : (s.raise e).answers = .err e :: s.answers := rfl
@[simp] theorem State.raise_calls : (s.raise e).calls = s.calls := rfl
@[simp] theorem State.raise_drawn : (s.raise e).drawn = s.drawn := rfl
end Raise

section Refusebusy
@[simp] theorem State.refuseBusy_addr : (s.refuseBusy).addr = s.addr := rfl
@[simp] theorem State.refuseBusy_addrV : (s.refuseBusy).addrV = s.addrV := rfl
@[simp] theorem State.refuseBusy_mid : (s.refuseBusy).mid = s.mid := rfl
@[simp] theorem State.refuseBusy_reqfn : (s.refuseBusy).reqfn = s.reqfn := rfl
@[simp] theorem State.refuseBusy_crcTx : (s.refuseBusy).crcTx = s.crcTx := rfl
@[simp] theorem State.refuseBusy_crcRx : (s.refuseBusy).crcRx = s.crcRx := rfl
@[simp] theorem State.refuseBusy_txbuf : (s.refuseBusy).txbuf = s.txbuf := rfl
@[simp] theorem State.refuseBusy_txlen : (s.refuseBusy).txlen = s.txlen := rfl
@[simp] theorem State.refuseBusy_rxbuf : (s.refuseBusy).rxbuf = s.rxbuf := rfl
@[simp] theorem State.refuseBusy_rxlen : (s.refuseBusy).rxlen = s.rxlen := rfl
@[simp] theorem State.refuseBusy_seq : (s.refuseBusy).seq = s.seq := rfl
@[simp] theorem State.refuseBusy_idx : (s.refuseBusy).idx = s.idx := rfl
@[simp] theorem State.refuseBusy_rem : (s.refuseBusy).rem = s.rem := rfl
@[simp] theorem State.refuseBusy_skips : (s.refuseBusy).skips = s.skips := rfl
@[simp] theorem State.refuseBusy_busy : (s.refuseBusy).busy = s.busy := rfl
@[simp] theorem State.refuseBusy_done : (s.refuseBusy).done = s.done := rfl
@[simp] theorem State.refuseBusy_addrHit : (s.refuseBusy).addrHit = s.addrHit := rfl
@[simp] theorem State.refuseBusy_crcOk : (s.refuseBusy).crcOk = s.crcOk := rfl
@[simp] theorem State.refuseBusy_isErr : (s.refuseBusy).isErr = s.isErr := rfl
@[simp] theorem State.refuseBusy_fnOk : (s.refuseBusy).fnOk = s.fnOk := rfl
@[simp] theorem State.refuseBusy_kind : (s.refuseBusy).kind = s.kind := rfl
@[simp] theorem State.refuseBusy_errcode : (s.refuseBusy).errcode = s.errcode := rfl
@[simp] theorem State.refuseBusy_respfn : (s.refuseBusy).respfn = s.respfn := rfl
@[simp] theorem State.refuseBusy_respmid : (s.refuseBusy).respmid = s.respmid := rfl
@[simp] theorem State.refuseBusy_bodylen : (s.refuseBusy).bodylen = s.bodylen := rfl
@[simp] theorem State.refuseBusy_paylen : (s.refuseBusy).paylen = s.paylen := rfl
@[simp] theorem State.refuseBusy_calccrc : (s.refuseBusy).calccrc = s.calccrc := rfl
@[simp] theorem State.refuseBusy_recvcrc : (s.refuseBusy).recvcrc = s.recvcrc := rfl
@[simp] theorem State.refuseBusy_op : (s.refuseBusy).op = s.op := rfl
@[simp] theorem State.refuseBusy_params : (s.refuseBusy).params = s.params := rfl
@[simp] theorem State.refuseBusy_transport : (s.refuseBusy).transport = s.transport := rfl
@[simp] theorem State.refuseBusy_links : (s.refuseBusy).links = s.links := rfl
@[simp] theorem State.refuseBusy_inputs : (s.refuseBusy).inputs = s.inputs := rfl
@[simp] theorem State.refuseBusy_answers : (s.refuseBusy).answers = .err .busyRefused :: s.answers := rfl
@[simp] theorem State.refuseBusy_calls : (s.refuseBusy).calls = s.calls := rfl
@[simp] theorem State.refuseBusy_drawn : (s.refuseBusy).drawn = s.drawn := rfl
end Refusebusy

section Accept
variable (o : SeqOp)
@[simp] theorem State.accept_addr : (s.accept o).addr = s.addr := rfl
@[simp] theorem State.accept_addrV : (s.accept o).addrV = s.addrV := rfl
@[simp] theorem State.accept_mid : (s.accept o).mid = s.mid := rfl
@[simp] theorem State.accept_reqfn : (s.accept o).reqfn = s.reqfn := rfl
@[simp] theorem State.accept_crcTx : (s.accept o).crcTx = s.crcTx := rfl
@[simp] theorem State.accept_crcRx : (s.accept o).crcRx = s.crcRx := rfl
@[simp] theorem State.accept_txbuf : (s.accept o).txbuf = s.txbuf := rfl
@[simp] theorem State.accept_txlen : (s.accept o).txlen = s.txlen := rfl
@[simp] theorem State.accept_rxbuf : (s.accept o).rxbuf = s.rxbuf := rfl
@[simp] theorem State.accept_rxlen : (s.accept o).rxlen = s.rxlen := rfl
@[simp] theorem State.accept_seq : (s.accept o).seq = .build := rfl
@[simp] theorem State.accept_idx : (s.accept o).idx = s.idx := rfl
@[simp] theorem State.accept_rem : (s.accept o).rem = s.rem := rfl
@[simp] theorem State.accept_skips : (s.accept o).skips = 0 := rfl
@[simp] theorem State.accept_busy : (s.accept o).busy = true := rfl
@[simp] theorem State.accept_done : (s.accept o).done = false := rfl
@[simp] theorem State.accept_addrHit : (s.accept o).addrHit = false := rfl
@[simp] theorem State.accept_crcOk : (s.accept o).crcOk = false := rfl
@[simp] theorem State.accept_isErr : (s.accept o).isErr = false := rfl
@[simp] theorem State.accept_fnOk : (s.accept o).fnOk = false := rfl
@[simp] theorem State.accept_kind : (s.accept o).kind = s.kind := rfl
@[simp] theorem State.accept_errcode : (s.accept o).errcode = s.errcode := rfl
@[simp] theorem State.accept_respfn : (s.accept o).respfn = s.respfn := rfl
@[simp] theorem State.accept_respmid : (s.accept o).respmid = s.respmid := rfl
@[simp] theorem State.accept_bodylen : (s.accept o).bodylen = s.bodylen := rfl
@[simp] theorem State.accept_paylen : (s.accept o).paylen = s.paylen := rfl
@[simp] theorem State.accept_calccrc : (s.accept o).calccrc = s.calccrc := rfl
@[simp] theorem State.accept_recvcrc : (s.accept o).recvcrc = s.recvcrc := rfl
@[simp] theorem State.accept_op : (s.accept o).op = some o := rfl
@[simp] theorem State.accept_params : (s.accept o).params = s.params := rfl
@[simp] theorem State.accept_transport : (s.accept o).transport = s.transport := rfl
@[simp] theorem State.accept_links : (s.accept o).links = s.links := rfl
@[simp] theorem State.accept_inputs : (s.accept o).inputs = s.inputs := rfl
@[simp] theorem State.accept_answers : (s.accept o).answers = s.answers := rfl
@[simp] theorem State.accept_calls : (s.accept o).calls = s.calls := rfl
@[simp] theorem State.accept_drawn : (s.accept o).drawn = s.drawn := rfl
end Accept

section Prepwrite
@[simp] theorem State.prepWrite_addr : (s.prepWrite).addr = s.addr := rfl
@[simp] theorem State.prepWrite_addrV : (s.prepWrite).addrV = s.addrV := rfl
@[simp] theorem State.prepWrite_mid : (s.prepWrite).mid = s.mid := rfl
@[simp] theorem State.prepWrite_reqfn : (s.prepWrite).reqfn = s.reqfn := rfl
@[simp] theorem State.prepWrite_crcTx : (s.prepWrite).crcTx = s.crcTx := rfl
@[simp] theorem State.prepWrite_crcRx : (s.prepWrite).crcRx = s.crcRx := rfl
@[simp] theorem State.prepWrite_txbuf : (s.prepWrite).txbuf = s.txbuf := rfl
@[simp] theorem State.prepWrite_txlen : (s.prepWrite).txlen = s.txlen := rfl
@[simp] theorem State.prepWrite_rxbuf : (s.prepWrite).rxbuf = s.rxbuf := rfl
@[simp] theorem State.prepWrite_rxlen : (s.prepWrite).rxlen = s.rxlen := rfl
@[simp] theorem State.prepWrite_seq : (s.prepWrite).seq = s.seq := rfl
@[simp] theorem State.prepWrite_idx : (s.prepWrite).idx = s.idx := rfl
@[simp] theorem State.prepWrite_rem : (s.prepWrite).rem = s.rem := rfl
@[simp] theorem State.prepWrite_skips : (s.prepWrite).skips = s.skips := rfl
@[simp] theorem State.prepWrite_busy : (s.prepWrite).busy = s.busy := rfl
@[simp] theorem State.prepWrite_done : (s.prepWrite).done = s.done := rfl
@[simp] theorem State.prepWrite_addrHit : (s.prepWrite).addrHit = s.addrHit := rfl
@[simp] theorem State.prepWrite_crcOk : (s.prepWrite).crcOk = s.crcOk := rfl
@[simp] theorem State.prepWrite_isErr : (s.prepWrite).isErr = s.isErr := rfl
@[simp] theorem State.prepWrite_fnOk : (s.prepWrite).fnOk = s.fnOk := rfl
@[simp] theorem State.prepWrite_kind : (s.prepWrite).kind = s.kind := rfl
@[simp] theorem State.prepWrite_errcode : (s.prepWrite).errcode = s.errcode := rfl
@[simp] theorem State.prepWrite_respfn : (s.prepWrite).respfn = s.respfn := rfl
@[simp] theorem State.prepWrite_respmid : (s.prepWrite).respmid = s.respmid := rfl
@[simp] theorem State.prepWrite_bodylen : (s.prepWrite).bodylen = s.bodylen := rfl
@[simp] theorem State.prepWrite_paylen : (s.prepWrite).paylen = s.paylen := rfl
@[simp] theorem State.prepWrite_calccrc : (s.prepWrite).calccrc = s.calccrc := rfl
@[simp] theorem State.prepWrite_recvcrc : (s.prepWrite).recvcrc = s.recvcrc := rfl
@[simp] theorem State.prepWrite_op : (s.prepWrite).op = s.op := rfl
@[simp] theorem State.prepWrite_params : (s.prepWrite).params = s.params := rfl
@[simp] theorem State.prepWrite_transport : (s.prepWrite).transport = s.transport.prepWrite s.params.timeout := rfl
@[simp] theorem State.prepWrite_links : (s.prepWrite).links = s.links := rfl
@[simp] theorem State.prepWrite_inputs : (s.prepWrite).inputs = s.inputs := rfl
@[simp] theorem State.prepWrite_answers : (s.prepWrite).answers = s.answers := rfl
@[simp] theorem State.prepWrite_calls : (s.prepWrite).calls = .prepWrite :: s.calls := rfl
@[simp] theorem State.prepWrite_drawn : (s.prepWrite).drawn = s.drawn := rfl
end Prepwrite

section Prepread
@[simp] theorem State.prepRead_addr : (s.prepRead).addr = s.addr := rfl
@[simp] theorem State.prepRead_addrV : (s.prepRead).addrV = s.addrV := rfl
@[simp] theorem State.prepRead_mid : (s.prepRead).mid = s.mid := rfl
@[simp] theorem State.prepRead_reqfn : (s.prepRead).reqfn = s.reqfn := rfl
@[simp] theorem State.prepRead_crcTx : (s.prepRead).crcTx = s.crcTx := rfl
@[simp] theorem State.prepRead_crcRx : (s.prepRead).crcRx = s.crcRx := rfl
@[simp] theorem State.prepRead_txbuf : (s.prepRead).txbuf = s.txbuf := rfl
@[simp] theorem State.prepRead_txlen : (s.prepRead).txlen = s.txlen := rfl
@[simp] theorem State.prepRead_rxbuf : (s.prepRead).rxbuf = s.rxbuf := rfl
@[simp] theorem State.prepRead_rxlen : (s.prepRead).rxlen = s.rxlen := rfl
@[simp] theorem State.prepRead_seq : (s.prepRead).seq = s.seq := rfl
@[simp] theorem State.prepRead_idx : (s.prepRead).idx = s.idx := rfl
@[simp] theorem State.prepRead_rem : (s.prepRead).rem = s.rem := rfl
@[simp] theorem State.prepRead_skips : (s.prepRead).skips = s.skips := rfl
@[simp] theorem State.prepRead_busy : (s.prepRead).busy = s.busy := rfl
@[simp] theorem State.prepRead_done : (s.prepRead).done = s.done := rfl
@[simp] theorem State.prepRead_addrHit : (s.prepRead).addrHit = s.addrHit := rfl
@[simp] theorem State.prepRead_crcOk : (s.prepRead).crcOk = s.crcOk := rfl
@[simp] theorem State.prepRead_isErr : (s.prepRead).isErr = s.isErr := rfl
@[simp] theorem State.prepRead_fnOk : (s.prepRead).fnOk = s.fnOk := rfl
@[simp] theorem State.prepRead_kind : (s.prepRead).kind = s.kind := rfl
@[simp] theorem State.prepRead_errcode : (s.prepRead).errcode = s.errcode := rfl
@[simp] theorem State.prepRead_respfn : (s.prepRead).respfn = s.respfn := rfl
@[simp] theorem State.prepRead_respmid : (s.prepRead).respmid = s.respmid := rfl
@[simp] theorem State.prepRead_bodylen : (s.prepRead).bodylen = s.bodylen := rfl
@[simp] theorem State.prepRead_paylen : (s.prepRead).paylen = s.paylen := rfl
@[simp] theorem State.prepRead_calccrc : (s.prepRead).calccrc = s.calccrc := rfl
@[simp] theorem State.prepRead_recvcrc : (s.prepRead).recvcrc = s.recvcrc := rfl
@[simp] theorem State.prepRead_op : (s.prepRead).op = s.op := rfl
@[simp] theorem State.prepRead_params : (s.prepRead).params = s.params := rfl
@[simp] theorem State.prepRead_transport : (s.prepRead).transport = s.transport.prepRead s.params.timeout := rfl
@[simp] theorem State.prepRead_links : (s.prepRead).links = s.links := rfl
@[simp] theorem State.prepRead_inputs : (s.prepRead).inputs = s.inputs := rfl
@[simp] theorem State.prepRead_answers : (s.prepRead).answers = s.answers := rfl
@[simp] theorem State.prepRead_calls : (s.prepRead).calls = .prepRead :: s.calls := rfl
@[simp] theorem State.prepRead_drawn : (s.prepRead).drawn = s.drawn := rfl
end Prepread

section Logreq
@[simp] theorem State.logReq_addr : (s.logReq).addr = s.addr := rfl
@[simp] theorem State.logReq_addrV : (s.logReq).addrV = s.addrV := rfl
@[simp] theorem State.logReq_mid : (s.logReq).mid = s.mid := rfl
@[simp] theorem State.logReq_reqfn : (s.logReq).reqfn = s.reqfn := rfl
@[simp] theorem State.logReq_crcTx : (s.logReq).crcTx = s.crcTx := rfl
@[simp] theorem State.logReq_crcRx : (s.logReq).crcRx = s.crcRx := rfl
@[simp] theorem State.logReq_txbuf : (s.logReq).txbuf = s.txbuf := rfl
@[simp] theorem State.logReq_txlen : (s.logReq).txlen = s.txlen := rfl
@[simp] theorem State.logReq_rxbuf : (s.logReq).rxbuf = s.rxbuf := rfl
@[simp] theorem State.logReq_rxlen : (s.logReq).rxlen = s.rxlen := rfl
@[simp] theorem State.logReq_seq : (s.logReq).seq = s.seq := rfl
@[simp] theorem State.logReq_idx : (s.logReq).idx = s.idx := rfl
@[simp] theorem State.logReq_rem : (s.logReq).rem = s.rem := rfl
@[simp] theorem State.logReq_skips : (s.logReq).skips = s.skips := rfl
@[simp] theorem State.logReq_busy : (s.logReq).busy = s.busy := rfl
@[simp] theorem State.logReq_done : (s.logReq).done = s.done := rfl
@[simp] theorem State.logReq_addrHit : (s.logReq).addrHit = s.addrHit := rfl
@[simp] theorem State.logReq_crcOk : (s.logReq).crcOk = s.crcOk := rfl
@[simp] theorem State.logReq_isErr : (s.logReq).isErr = s.isErr := rfl
@[simp] theorem State.logReq_fnOk : (s.logReq).fnOk = s.fnOk := rfl
@[simp] theorem State.logReq_kind : (s.logReq).kind = s.kind := rfl
@[simp] theorem State.logReq_errcode : (s.logReq).errcode = s.errcode := rfl
@[simp] theorem State.logReq_respfn : (s.logReq).respfn = s.respfn := rfl
@[simp] theorem State.logReq_respmid : (s.logReq).respmid = s.respmid := rfl
@[simp] theorem State.logReq_bodylen : (s.logReq).bodylen = s.bodylen := rfl
@[simp] theorem State.logReq_paylen : (s.logReq).paylen = s.paylen := rfl
@[simp] theorem State.logReq_calccrc : (s.logReq).calccrc = s.calccrc := rfl
@[simp] theorem State.logReq_recvcrc : (s.logReq).recvcrc = s.recvcrc := rfl
@[simp] theorem State.logReq_op : (s.logReq).op = s.op := rfl
@[simp] theorem State.logReq_params : (s.logReq).params = s.params := rfl
@[simp] theorem State.logReq_transport : (s.logReq).transport = s.transport.logReq := rfl
@[simp] theorem State.logReq_links : (s.logReq).links = s.links := rfl
@[simp] theorem State.logReq_inputs : (s.logReq).inputs = s.inputs := rfl
@[simp] theorem State.logReq_answers : (s.logReq).answers = s.answers := rfl
@[simp] theorem State.logReq_calls : (s.logReq).calls = .logReq :: s.calls := rfl
@[simp] theorem State.logReq_drawn : (s.logReq).drawn = s.drawn := rfl
end Logreq

section Logresp
@[simp] theorem State.logResp_addr : (s.logResp).addr = s.addr := rfl
@[simp] theorem State.logResp_addrV : (s.logResp).addrV = s.addrV := rfl
@[simp] theorem State.logResp_mid : (s.logResp).mid = s.mid := rfl
@[simp] theorem State.logResp_reqfn : (s.logResp).reqfn = s.reqfn := rfl
@[simp] theorem State.logResp_crcTx : (s.logResp).crcTx = s.crcTx := rfl
@[simp] theorem State.logResp_crcRx : (s.logResp).crcRx = s.crcRx := rfl
@[simp] theorem State.logResp_txbuf : (s.logResp).txbuf = s.txbuf := rfl
@[simp] theorem State.logResp_txlen : (s.logResp).txlen = s.txlen := rfl
@[simp] theorem State.logResp_rxbuf : (s.logResp).rxbuf = s.rxbuf := rfl
@[simp] theorem State.logResp_rxlen : (s.logResp).rxlen = s.rxlen := rfl
@[simp] theorem State.logResp_seq : (s.logResp).seq = s.seq := rfl
@[simp] theorem State.logResp_idx : (s.logResp).idx = s.idx := rfl
@[simp] theorem State.logResp_rem : (s.logResp).rem = s.rem := rfl
@[simp] theorem State.logResp_skips : (s.logResp).skips = s.skips := rfl
@[simp] theorem State.logResp_busy : (s.logResp).busy = s.busy := rfl
@[simp] theorem State.logResp_done : (s.logResp).done = s.done := rfl
@[simp] theorem State.logResp_addrHit : (s.logResp).addrHit = s.addrHit := rfl
@[simp] theorem State.logResp_crcOk : (s.logResp).crcOk = s.crcOk := rfl
@[simp] theorem State.logResp_isErr : (s.logResp).isErr = s.isErr := rfl
@[simp] theorem State.logResp_fnOk : (s.logResp).fnOk = s.fnOk := rfl
@[simp] theorem State.logResp_kind : (s.logResp).kind = s.kind := rfl
@[simp] theorem State.logResp_errcode : (s.logResp).errcode = s.errcode := rfl
@[simp] theorem State.logResp_respfn : (s.logResp).respfn = s.respfn := rfl
@[simp] theorem State.logResp_respmid : (s.logResp).respmid = s.respmid := rfl
@[simp] theorem State.logResp_bodylen : (s.logResp).bodylen = s.bodylen := rfl
@[simp] theorem State.logResp_paylen : (s.logResp).paylen = s.paylen := rfl
@[simp] theorem State.logResp_calccrc : (s.logResp).calccrc = s.calccrc := rfl
@[simp] theorem State.logResp_recvcrc : (s.logResp).recvcrc = s.recvcrc := rfl
@[simp] theorem State.logResp_op : (s.logResp).op = s.op := rfl
@[simp] theorem State.logResp_params : (s.logResp).params = s.params := rfl
@[simp] theorem State.logResp_transport : (s.logResp).transport = s.transport.logResp := rfl
@[simp] theorem State.logResp_links : (s.logResp).links = s.links := rfl
@[simp] theorem State.logResp_inputs : (s.logResp).inputs = s.inputs := rfl
@[simp] theorem State.logResp_answers : (s.logResp).answers = s.answers := rfl
@[simp] theorem State.logResp_calls : (s.logResp).calls = .logResp :: s.calls := rfl
@[simp] theorem State.logResp_drawn : (s.logResp).drawn = s.drawn := rfl
end Logresp

section Call
variable (c : TifCall)
@[simp] theorem State.call_addr : (s.call c).addr = s.addr := rfl
@[simp] theorem State.call_addrV : (s.call c).addrV = s.addrV := rfl
@[simp] theorem State.call_mid : (s.call c).mid = s.mid := rfl
@[simp] theorem State.call_reqfn : (s.call c).reqfn = s.reqfn := rfl
@[simp] theorem State.call_crcTx : (s.call c).crcTx = s.crcTx := rfl
@[simp] theorem State.call_crcRx : (s.call c).crcRx = s.crcRx := rfl
@[simp] theorem State.call_txbuf : (s.call c).txbuf = s.txbuf := rfl
@[simp] theorem State.call_txlen : (s.call c).txlen = s.txlen := rfl
@[simp] theorem State.call_rxbuf : (s.call c).rxbuf = s.rxbuf := rfl
@[simp] theorem State.call_rxlen : (s.call c).rxlen = s.rxlen := rfl
@[simp] theorem State.call_seq : (s.call c).seq = s.seq := rfl
@[simp] theorem State.call_idx : (s.call c).idx = s.idx := rfl
@[simp] theorem State.call_rem : (s.call c).rem = s.rem := rfl
@[simp] theorem State.call_skips : (s.call c).skips = s.skips := rfl
@[simp] theorem State.call_busy : (s.call c).busy = s.busy := rfl
@[simp] theorem State.call_done : (s.call c).done = s.done := rfl
@[simp] theorem State.call_addrHit : (s.call c).addrHit = s.addrHit := rfl
@[simp] theorem State.call_crcOk : (s.call c).crcOk = s.crcOk := rfl
@[simp] theorem State.call_isErr : (s.call c).isErr = s.isErr := rfl
@[simp] theorem State.call_fnOk : (s.call c).fnOk = s.fnOk := rfl
@[simp] theorem State.call_kind : (s.call c).kind = s.kind := rfl
@[simp] theorem State.call_errcode : (s.call c).errcode = s.errcode := rfl
@[simp] theorem State.call_respfn : (s.call c).respfn = s.respfn := rfl
@[simp] theorem State.call_respmid : (s.call c).respmid = s.respmid := rfl
@[simp] theorem State.call_bodylen : (s.call c).bodylen = s.bodylen := rfl
@[simp] theorem State.call_paylen : (s.call c).paylen = s.paylen := rfl
@[simp] theorem State.call_calccrc : (s.call c).calccrc = s.calccrc := rfl
@[simp] theorem State.call_recvcrc : (s.call c).recvcrc = s.recvcrc := rfl
@[simp] theorem State.call_op : (s.call c).op = s.op := rfl
@[simp] theorem State.call_params : (s.call c).params = s.params := rfl
@[simp] theorem State.call_transport : (s.call c).transport = s.transport := rfl
@[simp] theorem State.call_links : (s.call c).links = s.links := rfl
@[simp] theorem State.call_inputs : (s.call c).inputs = s.inputs := rfl
@[simp] theorem State.call_answers : (s.call c).answers = s.answers := rfl
@[simp] theorem State.call_calls : (s.call c).calls = c :: s.calls := rfl
@[simp] theorem State.call_drawn : (s.call c).drawn = s.drawn := rfl
end Call

section HardReset
@[simp] theorem State.hardReset_addr : s.hardReset.addr = State.reset.addr := rfl
@[simp] theorem State.hardReset_addrV : s.hardReset.addrV = State.reset.addrV := rfl
@[simp] theorem State.hardReset_mid : s.hardReset.mid = State.reset.mid := rfl
@[simp] theorem State.hardReset_reqfn : s.hardReset.reqfn = State.reset.reqfn := rfl
@[simp] theorem State.hardReset_crcTx : s.hardReset.crcTx = State.reset.crcTx := rfl
@[simp] theorem State.hardReset_crcRx : s.hardReset.crcRx = State.reset.crcRx := rfl
@[simp] theorem State.hardReset_txbuf : s.hardReset.txbuf = State.reset.txbuf := rfl
@[simp] theorem State.hardReset_txlen : s.hardReset.txlen = State.reset.txlen := rfl
@[simp] theorem State.hardReset_rxbuf : s.hardReset.rxbuf = State.reset.rxbuf := rfl
@[simp] theorem State.hardReset_rxlen : s.hardReset.rxlen = State.reset.rxlen := rfl
@[simp] theorem State.hardReset_seq : s.hardReset.seq = State.reset.seq := rfl
@[simp] theorem State.hardReset_idx : s.hardReset.idx = State.reset.idx := rfl
@[simp] theorem State.hardReset_rem : s.hardReset.rem = State.reset.rem := rfl
@[simp] theorem State.hardReset_skips : s.hardReset.skips = State.reset.skips := rfl
@[simp] theorem State.hardReset_busy : s.hardReset.busy = State.reset.busy := rfl
@[simp] theorem State.hardReset_done : s.hardReset.done = State.reset.done := rfl
@[simp] theorem State.hardReset_addrHit : s.hardReset.addrHit = State.reset.addrHit := rfl
@[simp] theorem State.hardReset_crcOk : s.hardReset.crcOk = State.reset.crcOk := rfl
@[simp] theorem State.hardReset_isErr : s.hardReset.isErr = State.reset.isErr := rfl
@[simp] theorem State.hardReset_fnOk : s.hardReset.fnOk = State.reset.fnOk := rfl
@[simp] theorem State.hardReset_kind : s.hardReset.kind = State.reset.kind := rfl
@[simp] theorem State.hardReset_errcode : s.hardReset.errcode = State.reset.errcode := rfl
@[simp] theorem State.hardReset_respfn : s.hardReset.respfn = State.reset.respfn := rfl
@[simp] theorem State.hardReset_respmid : s.hardReset.respmid = State.reset.respmid := rfl
@[simp] theorem State.hardReset_bodylen : s.hardReset.bodylen = State.reset.bodylen := rfl
@[simp] theorem State.hardReset_paylen : s.hardReset.paylen = State.reset.paylen := rfl
@[simp] theorem State.hardReset_calccrc : s.hardReset.calccrc = State.reset.calccrc := rfl
@[simp] theorem State.hardReset_recvcrc : s.hardReset.recvcrc = State.reset.recvcrc := rfl
@[simp] theorem State.hardReset_op : s.hardReset.op = State.reset.op := rfl
@[simp] theorem State.hardReset_params : s.hardReset.params = s.params := rfl
@[simp] theorem State.hardReset_transport : s.hardReset.transport = s.transport := rfl
@[simp] theorem State.hardReset_links : s.hardReset.links = s.links := rfl
@[simp] theorem State.hardReset_inputs : s.hardReset.inputs = s.inputs := rfl
@[simp] theorem State.hardReset_answers : s.hardReset.answers = s.answers := rfl
@[simp] theorem State.hardReset_calls : s.hardReset.calls = s.calls := rfl
@[simp] theorem State.hardReset_drawn : s.hardReset.drawn = s.drawn := rfl
end HardReset

section SetCrc
variable (k : Engine) (v : Half)
@[simp] theorem State.setCrc_addr : (s.setCrc k v).addr = s.addr := by cases k <;> rfl
@[simp] theorem State.setCrc_addrV : (s.setCrc k v).addrV = s.addrV := by cases k <;> rfl
@[simp] theorem State.setCrc_mid : (s.setCrc k v).mid = s.mid := by cases k <;> rfl
@[simp] theorem State.setCrc_reqfn : (s.setCrc k v).reqfn = s.reqfn := by cases k <;> rfl
@[simp] theorem State.setCrc_txbuf : (s.setCrc k v).txbuf = s.txbuf := by cases k <;> rfl
@[simp] theorem State.setCrc_txlen : (s.setCrc k v).txlen = s.txlen := by cases k <;> rfl
@[simp] theorem State.setCrc_rxbuf : (s.setCrc k v).rxbuf = s.rxbuf := by cases k <;> rfl
@[simp] theorem State.setCrc_rxlen : (s.setCrc k v).rxlen = s.rxlen := by cases k <;> rfl
@[simp] theorem State.setCrc_seq : (s.setCrc k v).seq = s.seq := by cases k <;> rfl
@[simp] theorem State.setCrc_idx : (s.setCrc k v).idx = s.idx := by cases k <;> rfl
@[simp] theorem State.setCrc_rem : (s.setCrc k v).rem = s.rem := by cases k <;> rfl
@[simp] theorem State.setCrc_skips : (s.setCrc k v).skips = s.skips := by cases k <;> rfl
@[simp] theorem State.setCrc_busy : (s.setCrc k v).busy = s.busy := by cases k <;> rfl
@[simp] theorem State.setCrc_done : (s.setCrc k v).done = s.done := by cases k <;> rfl
@[simp] theorem State.setCrc_addrHit : (s.setCrc k v).addrHit = s.addrHit := by cases k <;> rfl
@[simp] theorem State.setCrc_crcOk : (s.setCrc k v).crcOk = s.crcOk := by cases k <;> rfl
@[simp] theorem State.setCrc_isErr : (s.setCrc k v).isErr = s.isErr := by cases k <;> rfl
@[simp] theorem State.setCrc_fnOk : (s.setCrc k v).fnOk = s.fnOk := by cases k <;> rfl
@[simp] theorem State.setCrc_kind : (s.setCrc k v).kind = s.kind := by cases k <;> rfl
@[simp] theorem State.setCrc_errcode : (s.setCrc k v).errcode = s.errcode := by cases k <;> rfl
@[simp] theorem State.setCrc_respfn : (s.setCrc k v).respfn = s.respfn := by cases k <;> rfl
@[simp] theorem State.setCrc_respmid : (s.setCrc k v).respmid = s.respmid := by cases k <;> rfl
@[simp] theorem State.setCrc_bodylen : (s.setCrc k v).bodylen = s.bodylen := by cases k <;> rfl
@[simp] theorem State.setCrc_paylen : (s.setCrc k v).paylen = s.paylen := by cases k <;> rfl
@[simp] theorem State.setCrc_calccrc : (s.setCrc k v).calccrc = s.calccrc := by cases k <;> rfl
@[simp] theorem State.setCrc_recvcrc : (s.setCrc k v).recvcrc = s.recvcrc := by cases k <;> rfl
@[simp] theorem State.setCrc_op : (s.setCrc k v).op = s.op := by cases k <;> rfl
@[simp] theorem State.setCrc_params : (s.setCrc k v).params = s.params := by cases k <;> rfl
@[simp] theorem State.setCrc_transport : (s.setCrc k v).transport = s.transport := by cases k <;> rfl
@[simp] theorem State.setCrc_links : (s.setCrc k v).links = s.links := by cases k <;> rfl
@[simp] theorem State.setCrc_inputs : (s.setCrc k v).inputs = s.inputs := by cases k <;> rfl
@[simp] theorem State.setCrc_answers : (s.setCrc k v).answers = s.answers := by cases k <;> rfl
@[simp] theorem State.setCrc_calls : (s.setCrc k v).calls = s.calls := by cases k <;> rfl
@[simp] theorem State.setCrc_drawn : (s.setCrc k v).drawn = s.drawn := by cases k <;> rfl
@[simp] theorem State.crc_setCrc_same : (s.setCrc k v).crc k = v := by cases k <;> rfl
theorem State.crc_setCrc_other {j k : Engine} (h : j ≠ k) (v : Half) : (s.setCrc k v).crc j = s.crc j := by
  cases j <;> cases k <;> first | rfl | exact absurd rfl h
theorem State.setCrc_comm {j k : Engine} (h : j ≠ k) (v w : Half) :
    (s.setCrc j v).setCrc k w = (s.setCrc k w).setCrc j v := by
  cases j <;> cases k <;> first | rfl | exact absurd rfl h
@[simp] theorem State.setCrc_setCrc (v w : Half) : (s.setCrc k v).setCrc k w = s.setCrc k w := by cases k <;> rfl
theorem State.setCrc_ret (u : Value) : (s.setCrc k v).ret u = (s.ret u).setCrc k v := by cases k <;> rfl
theorem State.setCrc_raise (e : Err) : (s.setCrc k v).raise e = (s.raise e).setCrc k v := by cases k <;> rfl
@[simp] theorem State.crc_ret (u : Value) : (s.ret u).crc k = s.crc k := by cases k <;> rfl
end SetCrc

section Conclude
theorem State.conclude_ok (v : Value) : s.conclude (.ok v) = s.ret v := rfl
theorem State.conclude_error (e : Err) : s.conclude (.error e) = s.raise e := rfl
/-- A busy unit answers `BUSY_REFUSED`, whatever the operation would do (R270). -/
theorem unlessBusy_busy {s : State} (t : State) (h : s.busy = true) : unlessBusy s t = .next s.refuseBusy := by
  simp [unlessBusy, h]
/-- An idle unit performs the operation. -/
theorem unlessBusy_free {s : State} (t : State) (h : s.busy = false) : unlessBusy s t = .next t := by
  simp [unlessBusy, h]
/-- An immediate operation always answers a next state. -/
theorem unlessBusy_next (s t : State) : ∃ u, unlessBusy s t = .next u := ⟨_, rfl⟩
end Conclude

end Sys2Proof.Machine
end

