-- ==== Sys2Proof/Laws/Checksum.lean ====
section
/-! SUPPORT. The laws of the checksum fold and of `CRC.VERIFY` (R101, R104, R107). -/

namespace Sys2Proof.Machine

@[simp] theorem crcFold_nil (c : Half) : crcFold [] c = c := rfl
theorem crcFold_cons (b : Byte) (s : List Byte) (c : Half) : crcFold (b :: s) c = crcFold s (crcStep c b) := rfl
theorem crcFold_append (s t : List Byte) (c : Half) : crcFold (s ++ t) c = crcFold t (crcFold s c) := by
  simp [crcFold, List.foldl_append]

theorem withChecksum_length (s : List Byte) : (withChecksum s).length = s.length + 2 := by
  simp [withChecksum]

/-- `CRC.VERIFY` on fewer than 2 bytes changes nothing (R107, V13). -/
theorem State.verify_short {s : State} {f : List Byte} (h : f.length < 2) :
    s.verify f = (s, some (.tooShort f.length)) := by
  simp [State.verify, h]

/-- `CRC.VERIFY` on 2 bytes or more (R107). -/
theorem State.verify_eq {s : State} {f : List Byte} (h : 2 ≤ f.length) :
    s.verify f =
      ({ s with
          crcRx := crc16 (f.take (f.length - 2))
          calccrc := crc16 (f.take (f.length - 2))
          recvcrc := le16At f (f.length - 2)
          crcOk := decide (crc16 (f.take (f.length - 2)) = le16At f (f.length - 2)) },
        if crc16 (f.take (f.length - 2)) = le16At f (f.length - 2) then none
        else some (.checksum (crc16 (f.take (f.length - 2))) (le16At f (f.length - 2)))) := by
  simp [State.verify, Nat.not_lt.2 h]

/-- The registers that `CRC.VERIFY` never touches. -/
def State.SameButCheck (s t : State) : Prop :=
  t = { s with crcRx := t.crcRx, calccrc := t.calccrc, recvcrc := t.recvcrc, crcOk := t.crcOk }

theorem State.verify_same (s : State) (f : List Byte) : s.SameButCheck (s.verify f).1 := by
  unfold State.verify
  split <;> rfl

end Sys2Proof.Machine
end

