-- ==== Sys2Proof/Laws/Safety.lean ====
section
/-! SUPPORT. The lemmas of the words claims are stated in (Safety.lean): a passing step, the two ends of an operation, and
the answers of an operation that completes at once. -/

namespace Sys2Proof.Machine

variable (s : State)

section Ticked
@[simp] theorem State.ticked_addr : s.ticked.addr = s.addr := rfl
@[simp] theorem State.ticked_addrV : s.ticked.addrV = s.addrV := rfl
@[simp] theorem State.ticked_mid : s.ticked.mid = s.mid := rfl
@[simp] theorem State.ticked_reqfn : s.ticked.reqfn = s.reqfn := rfl
@[simp] theorem State.ticked_crcTx : s.ticked.crcTx = s.crcTx := rfl
@[simp] theorem State.ticked_crcRx : s.ticked.crcRx = s.crcRx := rfl
@[simp] theorem State.ticked_txbuf : s.ticked.txbuf = s.txbuf := rfl
@[simp] theorem State.ticked_txlen : s.ticked.txlen = s.txlen := rfl
@[simp] theorem State.ticked_rxbuf : s.ticked.rxbuf = s.rxbuf := rfl
@[simp] theorem State.ticked_rxlen : s.ticked.rxlen = s.rxlen := rfl
@[simp] theorem State.ticked_seq : s.ticked.seq = s.seq := rfl
@[simp] theorem State.ticked_idx : s.ticked.idx = s.idx := rfl
@[simp] theorem State.ticked_rem : s.ticked.rem = s.rem := rfl
@[simp] theorem State.ticked_skips : s.ticked.skips = s.skips := rfl
@[simp] theorem State.ticked_busy : s.ticked.busy = s.busy := rfl
@[simp] theorem State.ticked_done : s.ticked.done = s.done := rfl
@[simp] theorem State.ticked_addrHit : s.ticked.addrHit = s.addrHit := rfl
@[simp] theorem State.ticked_crcOk : s.ticked.crcOk = s.crcOk := rfl
@[simp] theorem State.ticked_isErr : s.ticked.isErr = s.isErr := rfl
@[simp] theorem State.ticked_fnOk : s.ticked.fnOk = s.fnOk := rfl
@[simp] theorem State.ticked_kind : s.ticked.kind = s.kind := rfl
@[simp] theorem State.ticked_errcode : s.ticked.errcode = s.errcode := rfl
@[simp] theorem State.ticked_respfn : s.ticked.respfn = s.respfn := rfl
@[simp] theorem State.ticked_respmid : s.ticked.respmid = s.respmid := rfl
@[simp] theorem State.ticked_bodylen : s.ticked.bodylen = s.bodylen := rfl
@[simp] theorem State.ticked_paylen : s.ticked.paylen = s.paylen := rfl
@[simp] theorem State.ticked_calccrc : s.ticked.calccrc = s.calccrc := rfl
@[simp] theorem State.ticked_recvcrc : s.ticked.recvcrc = s.recvcrc := rfl
@[simp] theorem State.ticked_op : s.ticked.op = s.op := rfl
@[simp] theorem State.ticked_params : s.ticked.params = s.params := rfl
@[simp] theorem State.ticked_transport : s.ticked.transport = s.transport := rfl
@[simp] theorem State.ticked_links : s.ticked.links = s.links := rfl
@[simp] theorem State.ticked_answers : s.ticked.answers = s.answers := rfl
@[simp] theorem State.ticked_calls : s.ticked.calls = s.calls := rfl
@[simp] theorem State.ticked_drawn : s.ticked.drawn = s.drawn := rfl
@[simp] theorem State.ticked_holdsFrame : s.ticked.holdsFrame = s.holdsFrame := rfl
@[simp] theorem State.ticked_rxBytes : s.ticked.rxBytes = s.rxBytes := rfl
@[simp] theorem State.ticked_txBytes : s.ticked.txBytes = s.txBytes := rfl
end Ticked

section Ends
variable (e : Err) (v : Value)
@[simp] theorem State.errorEnd_addr : (s.errorEnd e).addr = s.addr := rfl
@[simp] theorem State.okEnd_addr : (s.okEnd v).addr = s.addr := rfl
@[simp] theorem State.errorEnd_addrV : (s.errorEnd e).addrV = s.addrV := rfl
@[simp] theorem State.okEnd_addrV : (s.okEnd v).addrV = s.addrV := rfl
@[simp] theorem State.errorEnd_mid : (s.errorEnd e).mid = s.mid := rfl
@[simp] theorem State.okEnd_mid : (s.okEnd v).mid = s.mid := rfl
@[simp] theorem State.errorEnd_reqfn : (s.errorEnd e).reqfn = s.reqfn := rfl
@[simp] theorem State.okEnd_reqfn : (s.okEnd v).reqfn = s.reqfn := rfl
@[simp] theorem State.errorEnd_crcTx : (s.errorEnd e).crcTx = s.crcTx := rfl
@[simp] theorem State.okEnd_crcTx : (s.okEnd v).crcTx = s.crcTx := rfl
@[simp] theorem State.errorEnd_crcRx : (s.errorEnd e).crcRx = s.crcRx := rfl
@[simp] theorem State.okEnd_crcRx : (s.okEnd v).crcRx = s.crcRx := rfl
@[simp] theorem State.errorEnd_txbuf : (s.errorEnd e).txbuf = s.txbuf := rfl
@[simp] theorem State.okEnd_txbuf : (s.okEnd v).txbuf = s.txbuf := rfl
@[simp] theorem State.errorEnd_txlen : (s.errorEnd e).txlen = s.txlen := rfl
@[simp] theorem State.okEnd_txlen : (s.okEnd v).txlen = s.txlen := rfl
@[simp] theorem State.errorEnd_rxbuf : (s.errorEnd e).rxbuf = s.rxbuf := rfl
@[simp] theorem State.okEnd_rxbuf : (s.okEnd v).rxbuf = s.rxbuf := rfl
@[simp] theorem State.errorEnd_rxlen : (s.errorEnd e).rxlen = s.rxlen := rfl
@[simp] theorem State.okEnd_rxlen : (s.okEnd v).rxlen = s.rxlen := rfl
@[simp] theorem State.errorEnd_seq : (s.errorEnd e).seq = .idle := rfl
@[simp] theorem State.okEnd_seq : (s.okEnd v).seq = .idle := rfl
@[simp] theorem State.errorEnd_idx : (s.errorEnd e).idx = s.idx := rfl
@[simp] theorem State.okEnd_idx : (s.okEnd v).idx = s.idx := rfl
@[simp] theorem State.errorEnd_rem : (s.errorEnd e).rem = s.rem := rfl
@[simp] theorem State.okEnd_rem : (s.okEnd v).rem = s.rem := rfl
@[simp] theorem State.errorEnd_skips : (s.errorEnd e).skips = s.skips := rfl
@[simp] theorem State.okEnd_skips : (s.okEnd v).skips = s.skips := rfl
@[simp] theorem State.errorEnd_busy : (s.errorEnd e).busy = false := rfl
@[simp] theorem State.okEnd_busy : (s.okEnd v).busy = false := rfl
@[simp] theorem State.errorEnd_done : (s.errorEnd e).done = true := rfl
@[simp] theorem State.okEnd_done : (s.okEnd v).done = true := rfl
@[simp] theorem State.errorEnd_addrHit : (s.errorEnd e).addrHit = s.addrHit := rfl
@[simp] theorem State.okEnd_addrHit : (s.okEnd v).addrHit = s.addrHit := rfl
@[simp] theorem State.errorEnd_crcOk : (s.errorEnd e).crcOk = s.crcOk := rfl
@[simp] theorem State.okEnd_crcOk : (s.okEnd v).crcOk = s.crcOk := rfl
@[simp] theorem State.errorEnd_isErr : (s.errorEnd e).isErr = s.isErr := rfl
@[simp] theorem State.okEnd_isErr : (s.okEnd v).isErr = s.isErr := rfl
@[simp] theorem State.errorEnd_fnOk : (s.errorEnd e).fnOk = s.fnOk := rfl
@[simp] theorem State.okEnd_fnOk : (s.okEnd v).fnOk = s.fnOk := rfl
@[simp] theorem State.errorEnd_kind : (s.errorEnd e).kind = e.kind := rfl
@[simp] theorem State.okEnd_kind : (s.okEnd v).kind = .ok := rfl
@[simp] theorem State.errorEnd_errcode : (s.errorEnd e).errcode = s.errcode := rfl
@[simp] theorem State.okEnd_errcode : (s.okEnd v).errcode = s.errcode := rfl
@[simp] theorem State.errorEnd_respfn : (s.errorEnd e).respfn = s.respfn := rfl
@[simp] theorem State.okEnd_respfn : (s.okEnd v).respfn = s.respfn := rfl
@[simp] theorem State.errorEnd_respmid : (s.errorEnd e).respmid = s.respmid := rfl
@[simp] theorem State.okEnd_respmid : (s.okEnd v).respmid = s.respmid := rfl
@[simp] theorem State.errorEnd_bodylen : (s.errorEnd e).bodylen = s.bodylen := rfl
@[simp] theorem State.okEnd_bodylen : (s.okEnd v).bodylen = s.bodylen := rfl
@[simp] theorem State.errorEnd_paylen : (s.errorEnd e).paylen = s.paylen := rfl
@[simp] theorem State.okEnd_paylen : (s.okEnd v).paylen = s.paylen := rfl
@[simp] theorem State.errorEnd_calccrc : (s.errorEnd e).calccrc = s.calccrc := rfl
@[simp] theorem State.okEnd_calccrc : (s.okEnd v).calccrc = s.calccrc := rfl
@[simp] theorem State.errorEnd_recvcrc : (s.errorEnd e).recvcrc = s.recvcrc := rfl
@[simp] theorem State.okEnd_recvcrc : (s.okEnd v).recvcrc = s.recvcrc := rfl
@[simp] theorem State.errorEnd_op : (s.errorEnd e).op = none := rfl
@[simp] theorem State.okEnd_op : (s.okEnd v).op = none := rfl
@[simp] theorem State.errorEnd_params : (s.errorEnd e).params = s.params := rfl
@[simp] theorem State.okEnd_params : (s.okEnd v).params = s.params := rfl
@[simp] theorem State.errorEnd_transport : (s.errorEnd e).transport = s.transport := rfl
@[simp] theorem State.okEnd_transport : (s.okEnd v).transport = s.transport := rfl
@[simp] theorem State.errorEnd_links : (s.errorEnd e).links = s.links := rfl
@[simp] theorem State.okEnd_links : (s.okEnd v).links = s.links := rfl
@[simp] theorem State.errorEnd_inputs : (s.errorEnd e).inputs = s.inputs := rfl
@[simp] theorem State.okEnd_inputs : (s.okEnd v).inputs = s.inputs := rfl
@[simp] theorem State.errorEnd_answers : (s.errorEnd e).answers = .err e :: s.answers := rfl
@[simp] theorem State.okEnd_answers : (s.okEnd v).answers = .ok v :: s.answers := rfl
@[simp] theorem State.errorEnd_calls : (s.errorEnd e).calls = s.calls := rfl
@[simp] theorem State.okEnd_calls : (s.okEnd v).calls = s.calls := rfl
@[simp] theorem State.errorEnd_drawn : (s.errorEnd e).drawn = s.drawn := rfl
@[simp] theorem State.okEnd_drawn : (s.okEnd v).drawn = s.drawn := rfl
/-- The entry of R240 in the model is the one claims are stated with. -/
theorem State.raise_eq : s.raise e = s.errorEnd e := rfl
theorem State.finish_eq : s.finish v = s.okEnd v := rfl
end Ends

/-- An operation that completes at once with a value. -/
theorem unlessBusy_ret (t : State) (v : Value) : unlessBusy s (t.ret v) = .next (s.immediate t (.ok v)) := by
  simp only [unlessBusy, State.immediate]
  split <;> rfl

/-- An operation that ends at once with an error. -/
theorem unlessBusy_raise (t : State) (e : Err) : unlessBusy s (t.raise e) = .next (s.immediate t (.error e)) := by
  simp only [unlessBusy, State.immediate]
  split <;> rfl

/-- An operation that completes at once, by value or by error. -/
theorem unlessBusy_conclude (t : State) (r : Except Err Value) :
    unlessBusy s (t.conclude r) = .next (s.immediate t r) := by
  cases r
  · exact unlessBusy_raise s t _
  · exact unlessBusy_ret s t _

/-- Time is in time exactly when it is not late. -/
theorem Transport.late_eq_false (t : Transport) (d : Nat) : t.late d = false ↔ t.inTime d := by
  unfold Transport.late Transport.inTime
  cases t.deadline <;> simp

/-- No step, and one step more. -/
theorem runs_zero : runs 0 s = .next s := rfl

theorem runs_succ {n : Nat} {s t : State} (h : step s = .next t) : runs (n + 1) s = runs n t := by
  have h' : Sys2Proof.core.step s = .next t := h
  show Sys2Proof.core.run (n + 1) s = Sys2Proof.core.run n t
  refine (Host.Core.run.eq_2 Sys2Proof.core s n).trans ?_
  rw [h']

/-- Runs one behind the other. -/
theorem runs_add {m n : Nat} {s t : State} (h : runs m s = .next t) : runs (m + n) s = runs n t := by
  induction m generalizing s with
  | zero =>
    cases h
    rw [Nat.zero_add]
  | succ m ih =>
    have h1 : (match step s with
        | .next u => runs m u
        | .fault f => .fault f
        | .refused r => .refused r) = .next t := by
      cases hs : step s with
      | next u => exact (runs_succ hs).symm.trans h
      | fault f =>
        exfalso
        have h' : Sys2Proof.core.step s = .fault f := hs
        have := (Host.Core.run.eq_2 Sys2Proof.core s m).symm.trans h
        rw [h'] at this
        cases this
      | refused r =>
        exfalso
        have h' : Sys2Proof.core.step s = .refused r := hs
        have := (Host.Core.run.eq_2 Sys2Proof.core s m).symm.trans h
        rw [h'] at this
        cases this
    cases hs : step s with
    | next u =>
      rw [hs] at h1
      rw [Nat.add_right_comm, runs_succ hs]
      exact ih h1
    | fault f => rw [hs] at h1; cases h1
    | refused r => rw [hs] at h1; cases h1

end Sys2Proof.Machine
end

