-- ==== Sys2Proof/Laws/Fetch.lean ====
section
/-! SUPPORT. What a step is, by where its instruction comes from. -/

namespace Sys2Proof.Machine

/-- A step is the host's act that lands, or a step of the unit (log 6). -/
theorem step_eq (s : State) : step s = match s.landing with
    | some a => (hostAct a { s with inputs := s.inputs.tail }).run
    | none => (unitAct s.ticked).run := by
  unfold step fetch State.landing State.ticked
  rcases h : s.inputs with _ | ⟨i, rest⟩
  · have : s = { s with inputs := [] } := by cases s; simp_all
    simp only
    rw [← this]
  · simp only [List.tail_cons]
    by_cases hl : i.lands s.busy = true
    · simp only [hl, if_true]
    · simp only [hl]
      rfl

/-- A command that lands and decodes is run. -/
theorem step_cmd {s : State} {c : CmdWrite} {i : Instr} (hl : s.landing = some (.cmd c)) (hd : decodeCmd c = .ok i) :
    step s = exec i { s with inputs := s.inputs.tail } := by
  rw [step_eq, hl]
  simp only [hostAct, hd]
  rfl

/-- A reserved command code that lands (R86). -/
theorem step_reserved {s : State} {c : CmdWrite} {e : DecodeError} (hl : s.landing = some (.cmd c))
    (hd : decodeCmd c = .error e) : step s = illegalCmd c.code { s with inputs := s.inputs.tail } := by
  rw [step_eq, hl]
  simp only [hostAct, hd]
  rfl

/-- A hardware reset that lands (R260). -/
theorem step_reset {s : State} {cut : Option Cut} (hl : s.landing = some (.reset cut)) :
    step s = .next (({ s with inputs := s.inputs.tail } : State).cutOff cut).hardReset := by
  rw [step_eq, hl]
  rfl

/-- Nothing is cut off between two rows, or where the unit blocks in nothing. -/
theorem State.cutOff_none (s : State) : s.cutOff none = s := rfl

theorem State.cutOff_free {s : State} (h : s.blockedIn = none) (cut : Option Cut) : s.cutOff cut = s := by
  cases cut <;> simp [State.cutOff, h]

theorem State.cutOff_some {s : State} {p : TifCall} (h : s.blockedIn = some p) (c : Cut) :
    s.cutOff (some c) = { s with calls := p :: s.calls, transport := s.transport.cut c p } := by
  simp [State.cutOff, h, State.call]

/-- A cut touches nothing but the transport and the transcript of calls. -/
theorem State.cutOff_shape (s : State) (cut : Option Cut) :
    ∃ u new, s.cutOff cut = { s with calls := new ++ s.calls, transport := u } ∧
      ((new = [] ∧ u = s.transport) ∨ ∃ p, s.blockedIn = some p ∧ new = [p]) := by
  cases cut with
  | none => exact ⟨s.transport, [], rfl, .inl ⟨rfl, rfl⟩⟩
  | some c =>
    cases h : s.blockedIn with
    | none => exact ⟨s.transport, [], State.cutOff_free h _, .inl ⟨rfl, rfl⟩⟩
    | some p => exact ⟨_, [p], State.cutOff_some h c, .inr ⟨p, rfl, rfl⟩⟩

/-- A read is asked for only at `RX_HDR` and `RX_BODY`. -/
theorem State.readSize_seq {s : State} {n : Nat} (h : s.readSize = some n) : s.seq = .rxHdr ∨ s.seq = .rxBody := by
  unfold State.readSize at h
  split at h <;> simp_all

theorem State.blockedIn_read {s : State} {n : Nat} (h : s.readSize = some n) : s.blockedIn = some (.rxRead n) := by
  rcases State.readSize_seq h with e | e <;> simp [State.blockedIn, e, h]

/-- A step of the unit with no whole frame in hand. -/
theorem step_advance {s : State} (hl : s.landing = none) (hh : s.holdsFrame = false) : step s = advance s.ticked := by
  rw [step_eq, hl]
  simp only [unitAct, State.ticked_holdsFrame, hh]
  rfl

/-- What a command decodes to is a host operation. -/
theorem decodeOp_isHost {op : Nat} {c : CmdWrite} {i : Instr} (h : decodeOp op c = .ok i) : i.isHost = true := by
  unfold decodeOp at h
  split at h <;> first
    | (cases h; done)
    | (injection h with h; subst h; rfl)
    | (unfold withoutEngine at h; split at h <;> first
        | (cases h; done)
        | (injection h with h; subst h; rfl))

theorem decodeCmd_isHost {c : CmdWrite} {i : Instr} (h : decodeCmd c = .ok i) : i.isHost = true := by
  unfold decodeCmd at h
  split at h
  · exact decodeOp_isHost h
  · cases h

/-- A frame is in hand only at the four rows that act on one. -/
theorem State.holdsFrame_iff (s : State) : s.holdsFrame = true ↔
    (∃ fn p, s.op = some (.execute fn p)) ∧
      (s.seq = .rxFilt ∨ s.seq = .chkCrc ∨ s.seq = .chkErr ∨ s.seq = .chkFn) := by
  unfold State.holdsFrame
  split <;> simp_all
  all_goals
    intro fn p h
    cases hs : s.seq <;> simp_all

/-- A frame instruction is what the unit does with the frame's bytes (R200). -/
theorem exec_frame {i : Instr} {fn : Byte} {f : FrameFields} (h : i.frameOf = some (fn, f)) (s : State) :
    exec i s = receiveFrame (frameBytes fn f) s := by
  cases i <;> simp only [Instr.frameOf, Option.some.injEq, Prod.mk.injEq, reduceCtorEq] at h <;>
    (obtain ⟨rfl, rfl⟩ := h; rfl)

/-- What a frame decodes to is the frame instruction of its own bytes. -/
theorem decodeFrame_frame {b : List Byte} {i : Instr} (h : decodeFrame b = .ok i) :
    ∃ fn f, i.frameOf = some (fn, f) ∧ frameBytes fn f = b := by
  unfold decodeFrame at h
  split at h
  · cases h
  · rename_i hlen
    split at h
    · cases h
    · have hb := frameBytes_frameFields (s := b) (by simpa using hlen)
      have key : ∀ fn : Byte, decodeFn fn (frameFields b) = .ok i → i.frameOf = some (fn, frameFields b) := by
        intro fn hd
        unfold decodeFn at hd
        have e : ∀ n, fn.toNat = n → fn = BitVec.ofNat 8 n := by
          rintro n rfl
          simp
        split at hd <;> first
          | (cases hd; done)
          | (rename_i hn; injection hd with hd; subst hd; rw [e _ hn]; rfl)
      exact ⟨_, _, key _ h, hb⟩

/-- At the rows without a frame in hand the unit takes that row (R175). -/
theorem holdsFrame_eq_false {s : State} (h : s.seq ≠ .rxFilt ∧ s.seq ≠ .chkCrc ∧ s.seq ≠ .chkErr ∧ s.seq ≠ .chkFn) :
    s.holdsFrame = false := by
  unfold State.holdsFrame
  split <;> simp_all

theorem step_build {s : State} (hl : s.landing = none) (hs : s.seq = .build) : step s = stepBuild s.ticked := by
  rw [step_advance hl (holdsFrame_eq_false (by simp [hs]))]
  simp only [advance, State.ticked_seq, hs]

theorem step_txPrep {s : State} (hl : s.landing = none) (hs : s.seq = .txPrep) : step s = stepTxPrep s.ticked := by
  rw [step_advance hl (holdsFrame_eq_false (by simp [hs]))]
  simp only [advance, State.ticked_seq, hs]

theorem step_txWrite {s : State} (hl : s.landing = none) (hs : s.seq = .txWrite) : step s = stepTxWrite s.ticked := by
  rw [step_advance hl (holdsFrame_eq_false (by simp [hs]))]
  simp only [advance, State.ticked_seq, hs]

theorem step_txFlush {s : State} (hl : s.landing = none) (hs : s.seq = .txFlush) : step s = stepTxFlush s.ticked := by
  rw [step_advance hl (holdsFrame_eq_false (by simp [hs]))]
  simp only [advance, State.ticked_seq, hs]

theorem step_rxPrep {s : State} (hl : s.landing = none) (hs : s.seq = .rxPrep) : step s = stepRxPrep s.ticked := by
  rw [step_advance hl (holdsFrame_eq_false (by simp [hs]))]
  simp only [advance, State.ticked_seq, hs]

theorem step_rxHdr {s : State} (hl : s.landing = none) (hs : s.seq = .rxHdr) : step s = stepRxHdr s.ticked := by
  rw [step_advance hl (holdsFrame_eq_false (by simp [hs]))]
  simp only [advance, State.ticked_seq, hs]

theorem step_rxBody {s : State} (hl : s.landing = none) (hs : s.seq = .rxBody) : step s = stepRxBody s.ticked := by
  rw [step_advance hl (holdsFrame_eq_false (by simp [hs]))]
  simp only [advance, State.ticked_seq, hs]

theorem step_idle {s : State} (hl : s.landing = none) (hs : s.seq = .idle) : step s = .next s.ticked := by
  rw [step_advance hl (holdsFrame_eq_false (by simp [hs]))]
  simp only [advance, State.ticked_seq, hs]

/-- At the rows that act on a whole frame in hand, the frame is decoded first; its code makes no difference (R200, R215). -/
theorem step_held {s : State} (hl : s.landing = none) (hh : s.holdsFrame = true) :
    step s = frameStage s.rxBytes s.ticked := by
  rw [step_eq, hl]
  simp only [unitAct, State.ticked_holdsFrame, hh, if_true, State.ticked_rxBytes]
  cases hd : decodeFrame s.rxBytes with
  | error e => rfl
  | ok i =>
    obtain ⟨fn, f, hf, hb⟩ := decodeFrame_frame hd
    simp only [Fetched.run]
    rw [exec_frame hf, hb, receiveFrame, State.ticked_holdsFrame, if_pos hh]

end Sys2Proof.Machine
end

