-- ==== Sys2Proof/Laws/Memory.lean ====
section
/-! SUPPORT. The laws of a frame buffer: reading back what was written, leaving every other index alone, and keeping the
canonical form. -/

namespace Sys2Proof.Machine

theorem Memory.get?_set (m : Memory) (a : Nat) (b : Byte) (i : Nat) (h : m.Pairwise (fun x y => x.1 < y.1)) :
    (m.set a b).get? i = if i = a then some b else m.get? i := by
  induction m with
  | nil => simp [Memory.set, Memory.get?, eq_comm]
  | cons c m ih =>
    obtain ⟨k, c⟩ := c
    have hm := (List.pairwise_cons.1 h).2
    simp only [Memory.set]
    split
    · simp only [Memory.get?, eq_comm]
    · split
      · rename_i h1 h2
        subst h2
        simp only [Memory.get?, eq_comm]
        split <;> rfl
      · rename_i h1 h2
        simp only [Memory.get?, ih hm]
        split
        · rename_i h3
          subst h3
          simp [Ne.symm h2]
        · rfl

theorem Memory.mem_set {m : Memory} {a : Nat} {b : Byte} {c : Host.Cell} (h : c ∈ m.set a b) : c = (a, b) ∨ c ∈ m := by
  induction m with
  | nil => simpa [Memory.set] using h
  | cons d m ih =>
    obtain ⟨k, d⟩ := d
    simp only [Memory.set] at h
    split at h
    · simpa using h
    · split at h
      · rcases List.mem_cons.1 h with h | h
        · exact .inl h
        · exact .inr (List.mem_cons_of_mem _ h)
      · rcases List.mem_cons.1 h with h | h
        · exact .inr (h ▸ List.mem_cons_self)
        · rcases ih h with h | h
          · exact .inl h
          · exact .inr (List.mem_cons_of_mem _ h)

/-- Writing a byte keeps the canonical form. -/
theorem Memory.wf_set {m : Memory} {a : Nat} {b : Byte} (h : m.wf) (ha : a < Config.bufSize) : (m.set a b).wf := by
  refine ⟨?_, fun c hc => ?_⟩
  · have hp := h.1
    clear h
    induction m with
    | nil => simp [Memory.set]
    | cons d m ih =>
      obtain ⟨k, d⟩ := d
      obtain ⟨h1, h2⟩ := List.pairwise_cons.1 hp
      simp only [Memory.set]
      split
      · rename_i hk
        refine List.pairwise_cons.2 ⟨fun c hc => ?_, hp⟩
        rcases List.mem_cons.1 hc with hc | hc
        · simpa [hc] using hk
        · exact lt_trans hk (h1 c hc)
      · split
        · rename_i hk
          subst hk
          exact List.pairwise_cons.2 ⟨h1, h2⟩
        · rename_i hk hk'
          refine List.pairwise_cons.2 ⟨fun c hc => ?_, ih h2⟩
          rcases Memory.mem_set hc with hc | hc
          · simp only [hc]; omega
          · exact h1 c hc
  · rcases Memory.mem_set hc with hc | hc
    · simpa [hc] using ha
    · exact h.2 c hc

/-- Writing bytes keeps the canonical form. -/
theorem Memory.wf_setBytes {m : Memory} {a : Nat} {s : List Byte} (h : m.wf) (ha : a + s.length ≤ Config.bufSize) :
    (m.setBytes a s).wf := by
  induction s generalizing m a with
  | nil => exact h
  | cons b s ih =>
    simp only [List.length_cons] at ha
    exact ih (Memory.wf_set h (by omega)) (by omega)

/-- `MemWrite` keeps the canonical form. -/
theorem Memory.wf_write {m n : Memory} {a : Nat} {s : List Byte} (h : m.wf) (hw : m.write a s = .ok n) : n.wf := by
  simp only [Memory.write] at hw
  split at hw
  · injection hw with hw
    exact hw ▸ Memory.wf_setBytes h ‹_›
  · cases hw

/-- What `MemWrite` does: inside the buffer the bytes are set, past its end it faults. -/
theorem Memory.write_eq (m : Memory) (a : Nat) (s : List Byte) :
    m.write a s = if a + s.length ≤ Config.bufSize then .ok (m.setBytes a s) else .error .bufferIndex := rfl

/-- Reading an index after a write: the written byte inside the written range, the old content outside it. -/
theorem Memory.get?_setBytes {m : Memory} (a : Nat) (s : List Byte) (i : Nat) (h : m.wf)
    (ha : a + s.length ≤ Config.bufSize) :
    (m.setBytes a s).get? i = if a ≤ i ∧ i < a + s.length then s[i - a]? else m.get? i := by
  induction s generalizing m a with
  | nil => simp only [Memory.setBytes, List.length_nil]; rw [if_neg (by omega)]
  | cons b s ih =>
    simp only [List.length_cons] at ha
    rw [Memory.setBytes, ih (a + 1) (Memory.wf_set h (by omega)) (by omega), Memory.get?_set _ _ _ _ h.1,
      List.length_cons]
    by_cases h1 : i = a
    · subst h1
      rw [if_neg (by omega), if_pos rfl, if_pos (by omega)]
      simp
    · by_cases h2 : a + 1 ≤ i ∧ i < a + 1 + s.length
      · rw [if_pos h2, if_pos (by omega)]
        obtain ⟨j, rfl⟩ : ∃ j, i = a + 1 + j := ⟨i - (a + 1), by omega⟩
        rw [show a + 1 + j - (a + 1) = j by omega, show a + 1 + j - a = j + 1 by omega, List.getElem?_cons_succ]
      · rw [if_neg h2, if_neg h1, if_neg (by omega)]

@[simp] theorem Memory.readBytes_length (sp : Space) (m : Memory) (a n : Nat) : (m.readBytes sp a n).length = n := by
  induction n generalizing a with
  | zero => rfl
  | succ n ih => simp [Memory.readBytes, ih]

theorem Memory.readBytes_getElem? (sp : Space) (m : Memory) (a n i : Nat) :
    (m.readBytes sp a n)[i]? = if i < n then some (m.read sp (a + i)) else none := by
  induction n generalizing a i with
  | zero => simp [Memory.readBytes]
  | succ n ih =>
    cases i with
    | zero => simp [Memory.readBytes]
    | succ i =>
      simp only [Memory.readBytes, List.getElem?_cons_succ, ih]
      simp only [Nat.add_lt_add_iff_right, show a + 1 + i = a + (i + 1) by omega]

theorem Memory.readBytes_append (sp : Space) (m : Memory) (a n k : Nat) :
    m.readBytes sp a (n + k) = m.readBytes sp a n ++ m.readBytes sp (a + n) k := by
  induction n generalizing a with
  | zero => simp [Memory.readBytes]
  | succ n ih =>
    rw [show n + 1 + k = (n + k) + 1 by omega, Memory.readBytes, ih, Memory.readBytes, List.cons_append,
      show a + 1 + n = a + (n + 1) by omega]

/-- `MemRead` of the range just written gives the bytes written. -/
theorem Memory.readBytes_setBytes_same (sp : Space) {m : Memory} (a : Nat) (s : List Byte) (h : m.wf)
    (ha : a + s.length ≤ Config.bufSize) : (m.setBytes a s).readBytes sp a s.length = s := by
  apply List.ext_getElem?
  intro i
  rw [Memory.readBytes_getElem?]
  by_cases hi : i < s.length
  · rw [if_pos hi, Memory.read, Memory.get?_setBytes _ _ _ h ha, if_pos (by omega), Nat.add_sub_cancel_left,
      List.getElem?_eq_getElem hi]
    rfl
  · rw [if_neg hi, List.getElem?_eq_none (by omega)]

/-- `MemRead` of a range the write does not touch gives what it gave. -/
theorem Memory.readBytes_setBytes_other (sp : Space) {m : Memory} (a : Nat) (s : List Byte) (b n : Nat) (h : m.wf)
    (ha : a + s.length ≤ Config.bufSize) (hd : b + n ≤ a ∨ a + s.length ≤ b) :
    (m.setBytes a s).readBytes sp b n = m.readBytes sp b n := by
  apply List.ext_getElem?
  intro i
  rw [Memory.readBytes_getElem?, Memory.readBytes_getElem?]
  split
  · rw [Memory.read, Memory.read, Memory.get?_setBytes _ _ _ h ha, if_neg (by omega)]
  · rfl

/-- Reading one index a write does not touch. -/
theorem Memory.read_setBytes_other (sp : Space) {m : Memory} (a : Nat) (s : List Byte) (i : Nat) (h : m.wf)
    (ha : a + s.length ≤ Config.bufSize) (hd : i < a ∨ a + s.length ≤ i) :
    (m.setBytes a s).read sp i = m.read sp i := by
  rw [Memory.read, Memory.read, Memory.get?_setBytes _ _ _ h ha, if_neg (by omega)]

end Sys2Proof.Machine
end

