-- ==== Sys2Proof/Laws/Transport.lean ====
section
/-! SUPPORT. What the transport's primitives can do: a read that succeeds gives exactly the bytes asked for and in
arrival order (R49), and which parts of the transport each primitive leaves alone. -/

namespace Sys2Proof.Machine

@[simp] theorem Transport.captureRx_nil (t : Transport) : t.captureRx [] = t := by
  cases t
  simp only [Transport.captureRx, List.append_nil, ite_self]

theorem Transport.captureRx_captureRx (t : Transport) (a b : List Byte) :
    (t.captureRx a).captureRx b = t.captureRx (a ++ b) := by
  cases h : t.capture <;> simp [Transport.captureRx, h]

/-- A read that succeeds gives as many bytes as were asked for. -/
theorem Transport.read_length {n : Nat} {t u : Transport} {b : List Byte} (h : Transport.read n t = (.ok b, u)) :
    b.length = n := by
  induction n generalizing t b u with
  | zero => simp only [Transport.read, Prod.mk.injEq, Except.ok.injEq] at h; simp [← h.1]
  | succ n ih =>
    simp only [Transport.read] at h
    split at h
    · split at h
      · simp at h
      · split at h
        · rename_i h1
          simp only [Prod.mk.injEq, Except.ok.injEq] at h
          rw [← h.1, List.length_cons, ih h1]
        · simp at h
    · simp at h
    · split at h <;> simp at h

/-- The parts of a transport that no read touches. -/
def Transport.SameOutput (t u : Transport) : Prop :=
  u.outBuf = t.outBuf ∧ u.line = t.line ∧ u.tx = t.tx ∧ u.txDrawn = t.txDrawn ∧ u.deadline = t.deadline ∧
    u.capture = t.capture ∧ u.sink = t.sink ∧ u.capTx = t.capTx

theorem Transport.SameOutput.trans {t u v : Transport} (h : t.SameOutput u) (k : u.SameOutput v) : t.SameOutput v := by
  obtain ⟨h1, h2, h3, h4, h5, h6, h7, h8⟩ := h
  obtain ⟨k1, k2, k3, k4, k5, k6, k7, k8⟩ := k
  exact ⟨k1.trans h1, k2.trans h2, k3.trans h3, k4.trans h4, k5.trans h5, k6.trans h6, k7.trans h7, k8.trans h8⟩

theorem Transport.nextRx_sameOutput (t : Transport) : t.SameOutput t.nextRx.2 := by
  unfold Transport.nextRx
  split <;> exact ⟨rfl, rfl, rfl, rfl, rfl, rfl, rfl, rfl⟩

theorem Transport.captureRx_sameOutput (t : Transport) (b : List Byte) : t.SameOutput (t.captureRx b) := by
  unfold Transport.captureRx
  split <;> exact ⟨rfl, rfl, rfl, rfl, rfl, rfl, rfl, rfl⟩

/-- No read touches the write direction or the deadline (C6: one deadline for the header and the remainder). -/
theorem Transport.read_sameOutput (n : Nat) (t : Transport) : t.SameOutput (Transport.read n t).2 := by
  induction n generalizing t with
  | zero => exact ⟨rfl, rfl, rfl, rfl, rfl, rfl, rfl, rfl⟩
  | succ n ih =>
    have h := t.nextRx_sameOutput
    simp only [Transport.read]
    split
    · rename_i gap b u hu
      rw [hu] at h
      split
      · exact h.trans ⟨rfl, rfl, rfl, rfl, rfl, rfl, rfl, rfl⟩
      · have step : u.SameOutput ({ u with now := u.now + gap } : Transport) := ⟨rfl, rfl, rfl, rfl, rfl, rfl, rfl, rfl⟩
        have k := (h.trans step).trans (Transport.captureRx_sameOutput _ [b])
        have r := k.trans (ih _)
        split <;> (rename_i hv; rw [hv] at r; exact r)
    · rename_i u hu
      rw [hu] at h
      exact h.trans ⟨rfl, rfl, rfl, rfl, rfl, rfl, rfl, rfl⟩
    · rename_i gap e u hu
      rw [hu] at h
      split <;> exact h.trans ⟨rfl, rfl, rfl, rfl, rfl, rfl, rfl, rfl⟩

/-! ### What each update of a transport leaves alone -/

@[simp] theorem Transport.captureTx_outBuf (t : Transport) (b : List Byte) : (t.captureTx b).outBuf = t.outBuf := by
  unfold Transport.captureTx; split <;> rfl
@[simp] theorem Transport.captureTx_line (t : Transport) (b : List Byte) : (t.captureTx b).line = t.line := by
  unfold Transport.captureTx; split <;> rfl
@[simp] theorem Transport.captureTx_rx (t : Transport) (b : List Byte) : (t.captureTx b).rx = t.rx := by
  unfold Transport.captureTx; split <;> rfl
@[simp] theorem Transport.captureTx_rxDrawn (t : Transport) (b : List Byte) : (t.captureTx b).rxDrawn = t.rxDrawn := by
  unfold Transport.captureTx; split <;> rfl
@[simp] theorem Transport.captureTx_tx (t : Transport) (b : List Byte) : (t.captureTx b).tx = t.tx := by
  unfold Transport.captureTx; split <;> rfl
@[simp] theorem Transport.captureTx_txDrawn (t : Transport) (b : List Byte) : (t.captureTx b).txDrawn = t.txDrawn := by
  unfold Transport.captureTx; split <;> rfl
@[simp] theorem Transport.captureTx_now (t : Transport) (b : List Byte) : (t.captureTx b).now = t.now := by
  unfold Transport.captureTx; split <;> rfl
@[simp] theorem Transport.captureTx_deadline (t : Transport) (b : List Byte) : (t.captureTx b).deadline = t.deadline := by
  unfold Transport.captureTx; split <;> rfl
@[simp] theorem Transport.captureTx_capture (t : Transport) (b : List Byte) : (t.captureTx b).capture = t.capture := by
  unfold Transport.captureTx; split <;> rfl
@[simp] theorem Transport.captureTx_sink (t : Transport) (b : List Byte) : (t.captureTx b).sink = t.sink := by
  unfold Transport.captureTx; split <;> rfl
@[simp] theorem Transport.captureTx_capRx (t : Transport) (b : List Byte) : (t.captureTx b).capRx = t.capRx := by
  unfold Transport.captureTx; split <;> rfl

@[simp] theorem Transport.captureRx_outBuf (t : Transport) (b : List Byte) : (t.captureRx b).outBuf = t.outBuf := by
  unfold Transport.captureRx; split <;> rfl
@[simp] theorem Transport.captureRx_line (t : Transport) (b : List Byte) : (t.captureRx b).line = t.line := by
  unfold Transport.captureRx; split <;> rfl
@[simp] theorem Transport.captureRx_rx (t : Transport) (b : List Byte) : (t.captureRx b).rx = t.rx := by
  unfold Transport.captureRx; split <;> rfl
@[simp] theorem Transport.captureRx_rxDrawn (t : Transport) (b : List Byte) : (t.captureRx b).rxDrawn = t.rxDrawn := by
  unfold Transport.captureRx; split <;> rfl
@[simp] theorem Transport.captureRx_tx (t : Transport) (b : List Byte) : (t.captureRx b).tx = t.tx := by
  unfold Transport.captureRx; split <;> rfl
@[simp] theorem Transport.captureRx_txDrawn (t : Transport) (b : List Byte) : (t.captureRx b).txDrawn = t.txDrawn := by
  unfold Transport.captureRx; split <;> rfl
@[simp] theorem Transport.captureRx_now (t : Transport) (b : List Byte) : (t.captureRx b).now = t.now := by
  unfold Transport.captureRx; split <;> rfl
@[simp] theorem Transport.captureRx_deadline (t : Transport) (b : List Byte) : (t.captureRx b).deadline = t.deadline := by
  unfold Transport.captureRx; split <;> rfl
@[simp] theorem Transport.captureRx_capture (t : Transport) (b : List Byte) : (t.captureRx b).capture = t.capture := by
  unfold Transport.captureRx; split <;> rfl
@[simp] theorem Transport.captureRx_sink (t : Transport) (b : List Byte) : (t.captureRx b).sink = t.sink := by
  unfold Transport.captureRx; split <;> rfl
@[simp] theorem Transport.captureRx_capTx (t : Transport) (b : List Byte) : (t.captureRx b).capTx = t.capTx := by
  unfold Transport.captureRx; split <;> rfl

@[simp] theorem Transport.after_outBuf (t : Transport) (a : TxAnswer) : (t.after a).outBuf = t.outBuf := by
  unfold Transport.after; split <;> rfl
@[simp] theorem Transport.after_line (t : Transport) (a : TxAnswer) : (t.after a).line = t.line := by
  unfold Transport.after; split <;> rfl
@[simp] theorem Transport.after_rx (t : Transport) (a : TxAnswer) : (t.after a).rx = t.rx := by
  unfold Transport.after; split <;> rfl
@[simp] theorem Transport.after_rxDrawn (t : Transport) (a : TxAnswer) : (t.after a).rxDrawn = t.rxDrawn := by
  unfold Transport.after; split <;> rfl
@[simp] theorem Transport.after_tx (t : Transport) (a : TxAnswer) : (t.after a).tx = t.tx := by
  unfold Transport.after; split <;> rfl
@[simp] theorem Transport.after_txDrawn (t : Transport) (a : TxAnswer) : (t.after a).txDrawn = t.txDrawn := by
  unfold Transport.after; split <;> rfl
@[simp] theorem Transport.after_deadline (t : Transport) (a : TxAnswer) : (t.after a).deadline = t.deadline := by
  unfold Transport.after; split <;> rfl
@[simp] theorem Transport.after_capture (t : Transport) (a : TxAnswer) : (t.after a).capture = t.capture := by
  unfold Transport.after; split <;> rfl
@[simp] theorem Transport.after_sink (t : Transport) (a : TxAnswer) : (t.after a).sink = t.sink := by
  unfold Transport.after; split <;> rfl
@[simp] theorem Transport.after_capTx (t : Transport) (a : TxAnswer) : (t.after a).capTx = t.capTx := by
  unfold Transport.after; split <;> rfl
@[simp] theorem Transport.after_capRx (t : Transport) (a : TxAnswer) : (t.after a).capRx = t.capRx := by
  unfold Transport.after; split <;> rfl

@[simp] theorem Transport.logReq_outBuf (t : Transport) : (t.logReq).outBuf = t.outBuf := by
  unfold Transport.logReq; split <;> rfl
@[simp] theorem Transport.logReq_line (t : Transport) : (t.logReq).line = t.line := by
  unfold Transport.logReq; split <;> rfl
@[simp] theorem Transport.logReq_rx (t : Transport) : (t.logReq).rx = t.rx := by
  unfold Transport.logReq; split <;> rfl
@[simp] theorem Transport.logReq_rxDrawn (t : Transport) : (t.logReq).rxDrawn = t.rxDrawn := by
  unfold Transport.logReq; split <;> rfl
@[simp] theorem Transport.logReq_tx (t : Transport) : (t.logReq).tx = t.tx := by
  unfold Transport.logReq; split <;> rfl
@[simp] theorem Transport.logReq_txDrawn (t : Transport) : (t.logReq).txDrawn = t.txDrawn := by
  unfold Transport.logReq; split <;> rfl
@[simp] theorem Transport.logReq_now (t : Transport) : (t.logReq).now = t.now := by
  unfold Transport.logReq; split <;> rfl
@[simp] theorem Transport.logReq_deadline (t : Transport) : (t.logReq).deadline = t.deadline := by
  unfold Transport.logReq; split <;> rfl
@[simp] theorem Transport.logReq_capture (t : Transport) : (t.logReq).capture = t.capture := by
  unfold Transport.logReq; split <;> rfl
@[simp] theorem Transport.logReq_sink (t : Transport) : (t.logReq).sink = t.sink := by
  unfold Transport.logReq; split <;> rfl
@[simp] theorem Transport.logReq_capRx (t : Transport) : (t.logReq).capRx = t.capRx := by
  unfold Transport.logReq; split <;> rfl

@[simp] theorem Transport.logResp_outBuf (t : Transport) : (t.logResp).outBuf = t.outBuf := by
  unfold Transport.logResp; split <;> rfl
@[simp] theorem Transport.logResp_line (t : Transport) : (t.logResp).line = t.line := by
  unfold Transport.logResp; split <;> rfl
@[simp] theorem Transport.logResp_rx (t : Transport) : (t.logResp).rx = t.rx := by
  unfold Transport.logResp; split <;> rfl
@[simp] theorem Transport.logResp_rxDrawn (t : Transport) : (t.logResp).rxDrawn = t.rxDrawn := by
  unfold Transport.logResp; split <;> rfl
@[simp] theorem Transport.logResp_tx (t : Transport) : (t.logResp).tx = t.tx := by
  unfold Transport.logResp; split <;> rfl
@[simp] theorem Transport.logResp_txDrawn (t : Transport) : (t.logResp).txDrawn = t.txDrawn := by
  unfold Transport.logResp; split <;> rfl
@[simp] theorem Transport.logResp_now (t : Transport) : (t.logResp).now = t.now := by
  unfold Transport.logResp; split <;> rfl
@[simp] theorem Transport.logResp_deadline (t : Transport) : (t.logResp).deadline = t.deadline := by
  unfold Transport.logResp; split <;> rfl
@[simp] theorem Transport.logResp_capture (t : Transport) : (t.logResp).capture = t.capture := by
  unfold Transport.logResp; split <;> rfl
@[simp] theorem Transport.logResp_sink (t : Transport) : (t.logResp).sink = t.sink := by
  unfold Transport.logResp; split <;> rfl
@[simp] theorem Transport.logResp_capTx (t : Transport) : (t.logResp).capTx = t.capTx := by
  unfold Transport.logResp; split <;> rfl

/-- Bytes that arrive before the deadline are read, all of them and in order (R49); what follows them stays. -/
theorem Transport.read_arrivals (ts : Timed) (rest : List RxEvent) (t : Transport)
    (hrx : t.rx = arrivals ts ++ rest) (hd : t.late (waits ts) = false) :
    Transport.read ts.length t =
      (.ok (octets ts), ({ t with rx := rest, now := t.now + waits ts } : Transport).captureRx (octets ts)) := by
  induction ts generalizing t with
  | nil => cases t; simp_all [Transport.read, arrivals, octets, waits]
  | cons p ts ih =>
    obtain ⟨gap, b⟩ := p
    have hw : waits ((gap, b) :: ts) = gap + waits ts := by simp [waits]
    have hn : t.nextRx = (.arrive gap b, { t with rx := arrivals ts ++ rest }) := by
      simp [Transport.nextRx, hrx, arrivals]
    have hl : ({ t with rx := arrivals ts ++ rest } : Transport).late gap = false := by
      rw [hw] at hd
      revert hd
      simp only [Transport.late]
      cases t.deadline <;> simp
      omega
    simp only [List.length_cons, Transport.read, hn, hl]
    have := ih (({ t with rx := arrivals ts ++ rest, now := t.now + gap } : Transport).captureRx [b])
      (by unfold Transport.captureRx; split <;> rfl)
      (by
        rw [hw] at hd
        revert hd
        unfold Transport.captureRx
        split <;> (simp only [Transport.late]; cases t.deadline <;> simp; omega))
    simp only [Bool.false_eq_true, if_false] at this ⊢
    rw [this]
    simp only [octets, List.map_cons, hw, Prod.mk.injEq, true_and]
    cases t.capture <;> simp [Transport.captureRx, Nat.add_assoc]

/-- A write or a flush answered in time (R46, R47). -/
theorem Transport.outcome_done {t : Transport} {a : TxAnswer} (h : a.outcome = .done) (hl : t.late a.took = false) :
    t.outcome a = .ok () := by
  simp [Transport.outcome, h, hl]

theorem Transport.after_done {t : Transport} {a : TxAnswer} (h : a.outcome = .done) (hl : t.late a.took = false) :
    t.after a = { t with now := t.now + a.took } := by
  simp [Transport.after, Transport.outcome_done h hl]

/-! ### What a write and a flush can do (R46, R47) -/

theorem Transport.nextTx_shape {t u : Transport} {a : TxAnswer} (h : t.nextTx = (a, u)) :
    ∃ x k, u = { t with tx := x, txDrawn := k } := by
  unfold Transport.nextTx at h
  split at h <;> exact ⟨_, _, (Prod.mk.inj h).2.symm⟩

/-- A write that the transport answers in time with success: all bytes are buffered, behind what was buffered, and some of
them may be on the line. -/
theorem Transport.write_ok {t u : Transport} {a : TxAnswer} (b : List Byte) (h : t.nextTx = (a, u))
    (hd : a.outcome = .done) (hl : t.late a.took = false) :
    ∃ v, t.write b = (.ok (), v) ∧ t.line <+: v.line ∧ v.line ++ v.outBuf = t.line ++ t.outBuf ++ b ∧ v.rx = t.rx ∧
      v.tx = u.tx ∧ v.deadline = t.deadline ∧ v.now = t.now + a.took := by
  obtain ⟨x, k, rfl⟩ := nextTx_shape h
  have hl : ({ t with tx := x, txDrawn := k } : Transport).late a.took = false := hl
  simp only [Transport.write, h, Transport.outcome_done hd hl, Transport.after_done hd hl]
  refine ⟨_, rfl, ?_⟩
  unfold Transport.show Transport.captureTx
  split <;> simp [List.append_assoc]

/-- A flush that the transport answers in time with success: every buffered byte is on the line. -/
theorem Transport.flush_ok {t u : Transport} {a : TxAnswer} (h : t.nextTx = (a, u)) (hd : a.outcome = .done)
    (hl : t.late a.took = false) :
    ∃ v, t.flush = (.ok (), v) ∧ v.line = t.line ++ t.outBuf ∧ v.outBuf = [] ∧ v.rx = t.rx ∧ v.tx = u.tx ∧
      v.now = t.now + a.took := by
  obtain ⟨x, k, rfl⟩ := nextTx_shape h
  have hl : ({ t with tx := x, txDrawn := k } : Transport).late a.took = false := hl
  simp only [Transport.flush, h, Transport.outcome_done hd hl, Transport.after_done hd hl]
  exact ⟨_, rfl, by simp [Transport.show], by simp [Transport.show], rfl, rfl, rfl⟩

/-- The front of a list to which a front of another is appended is a front of both together. -/
theorem take_append_take (a b : List Byte) (n k : Nat) : ∃ j, (a ++ b.take n).take k = (a ++ b).take j := by
  refine ⟨min k (a.length + n), ?_⟩
  rw [← List.take_take, List.take_append (l₁ := a) (l₂ := b), List.take_of_length_le (l := a) (by omega),
    Nat.add_sub_cancel_left]

/-- A write that fails: a front of what was buffered and of the bytes is on the line. -/
theorem Transport.write_error {t u : Transport} {a : TxAnswer} {e : IoErr} (b : List Byte) (h : t.nextTx = (a, u))
    (ho : u.outcome a = .error e) :
    ∃ v k, t.write b = (.error e, v) ∧ v.line = t.line ++ (t.outBuf ++ b).take k ∧ v.rx = t.rx := by
  obtain ⟨x, k, rfl⟩ := nextTx_shape h
  obtain ⟨j, hj⟩ := take_append_take t.outBuf b a.accepted a.visible
  refine ⟨_, j, by simp only [Transport.write, h, ho]; rfl, ?_, ?_⟩
  · simp [Transport.keep, Transport.show, hj]
  · simp [Transport.keep, Transport.show]

/-- A flush that fails: a front of what was buffered is on the line. -/
theorem Transport.flush_error {t u : Transport} {a : TxAnswer} {e : IoErr} (h : t.nextTx = (a, u))
    (ho : u.outcome a = .error e) :
    ∃ v, t.flush = (.error e, v) ∧ v.line = t.line ++ t.outBuf.take a.visible ∧ v.rx = t.rx := by
  obtain ⟨x, k, rfl⟩ := nextTx_shape h
  refine ⟨_, by simp only [Transport.flush, h, ho]; rfl, ?_, ?_⟩
  · simp [Transport.keep, Transport.show]
  · simp [Transport.keep, Transport.show]

/-- An answer is a failure when it says so, or when it comes too late (R50). -/
theorem Transport.outcome_error {t : Transport} {a : TxAnswer} {e : IoErr}
    (h : (e = .timedOut ∧ (a.outcome = .timedOut ∨ t.late a.took = true)) ∨
      ∃ x, e = .failed x ∧ a.outcome = .failed x ∧ t.late a.took = false) : t.outcome a = .error e := by
  unfold Transport.outcome
  rcases h with ⟨rfl, h | h⟩ | ⟨x, rfl, h1, h2⟩
  · rw [h]; split <;> rfl
  · rw [if_pos h]
  · rw [if_neg (by simp [h2]), h1]

/-- Two waits one after the other are in time when the first is, and then the second is. -/
theorem Transport.late_add (t : Transport) (a b : Nat) :
    t.late (a + b) = false ↔ t.late a = false ∧ ({ t with now := t.now + a } : Transport).late b = false := by
  unfold Transport.late
  cases t.deadline <;> simp
  omega

/-- Bytes that arrive in time before a read fails are consumed and the read fails all the same (R49). -/
theorem Transport.read_error (got : Timed) (tail : List RxEvent) (k : Nat) (t : Transport) {e : IoErr} {u : Transport}
    (hrx : t.rx = arrivals got ++ tail) (hl : t.late (waits got) = false)
    (h : Transport.read k (({ t with rx := tail, now := t.now + waits got } : Transport).captureRx (octets got)) =
      (.error e, u)) : Transport.read (got.length + k) t = (.error e, u) := by
  induction got generalizing t with
  | nil =>
    have : ({ t with rx := tail, now := t.now + waits [] } : Transport).captureRx (octets []) = t := by
      rw [show octets [] = [] from rfl, Transport.captureRx_nil]
      cases t
      simp_all [arrivals, waits]
    rw [this] at h
    simpa using h
  | cons p got ih =>
    obtain ⟨gap, b⟩ := p
    have hw : waits ((gap, b) :: got) = gap + waits got := by simp [waits]
    have hn : t.nextRx = (.arrive gap b, { t with rx := arrivals got ++ tail }) := by
      simp [Transport.nextRx, hrx, arrivals]
    rw [hw, Transport.late_add] at hl
    have e1 : ({ t with rx := tail, now := t.now + waits ((gap, b) :: got) } : Transport).captureRx
        (octets ((gap, b) :: got)) =
        ({ (({ t with rx := arrivals got ++ tail, now := t.now + gap } : Transport).captureRx [b]) with
          rx := tail
          now := (({ t with rx := arrivals got ++ tail, now := t.now + gap } : Transport).captureRx [b]).now + waits got } :
          Transport).captureRx (octets got) := by
      cases t.capture <;> simp [Transport.captureRx, hw, octets, Nat.add_assoc]
    have := ih (({ t with rx := arrivals got ++ tail, now := t.now + gap } : Transport).captureRx [b]) (by simp)
      (by simpa [Transport.late] using hl.2) (e1 ▸ h)
    simp only [List.length_cons, Nat.add_right_comm _ 1 k, Transport.read, hn,
      show ({ t with rx := arrivals got ++ tail } : Transport).late gap = false from hl.1]
    rw [this]
    rfl

/-! ### What a primitive that is cut off can do (R260, U20) -/

@[simp] theorem Transport.pass_outBuf (t : Transport) (d : Nat) : (t.pass d).outBuf = t.outBuf := by
  unfold Transport.pass; split <;> rfl
@[simp] theorem Transport.pass_line (t : Transport) (d : Nat) : (t.pass d).line = t.line := by
  unfold Transport.pass; split <;> rfl
@[simp] theorem Transport.pass_rx (t : Transport) (d : Nat) : (t.pass d).rx = t.rx := by
  unfold Transport.pass; split <;> rfl
@[simp] theorem Transport.pass_rxDrawn (t : Transport) (d : Nat) : (t.pass d).rxDrawn = t.rxDrawn := by
  unfold Transport.pass; split <;> rfl
@[simp] theorem Transport.pass_tx (t : Transport) (d : Nat) : (t.pass d).tx = t.tx := by
  unfold Transport.pass; split <;> rfl
@[simp] theorem Transport.pass_txDrawn (t : Transport) (d : Nat) : (t.pass d).txDrawn = t.txDrawn := by
  unfold Transport.pass; split <;> rfl
@[simp] theorem Transport.pass_deadline (t : Transport) (d : Nat) : (t.pass d).deadline = t.deadline := by
  unfold Transport.pass; split <;> rfl
@[simp] theorem Transport.pass_capture (t : Transport) (d : Nat) : (t.pass d).capture = t.capture := by
  unfold Transport.pass; split <;> rfl
@[simp] theorem Transport.pass_sink (t : Transport) (d : Nat) : (t.pass d).sink = t.sink := by
  unfold Transport.pass; split <;> rfl
@[simp] theorem Transport.pass_capTx (t : Transport) (d : Nat) : (t.pass d).capTx = t.capTx := by
  unfold Transport.pass; split <;> rfl
@[simp] theorem Transport.pass_capRx (t : Transport) (d : Nat) : (t.pass d).capRx = t.capRx := by
  unfold Transport.pass; split <;> rfl
@[simp] theorem Transport.linger_outBuf (t : Transport) (d : Nat) : (t.linger d).outBuf = t.outBuf := by
  simp [Transport.linger]
@[simp] theorem Transport.linger_line (t : Transport) (d : Nat) : (t.linger d).line = t.line := by
  simp [Transport.linger]
@[simp] theorem Transport.linger_rxDrawn (t : Transport) (d : Nat) : (t.linger d).rxDrawn = t.rxDrawn := by
  simp [Transport.linger]
@[simp] theorem Transport.linger_tx (t : Transport) (d : Nat) : (t.linger d).tx = t.tx := by
  simp [Transport.linger]
@[simp] theorem Transport.linger_txDrawn (t : Transport) (d : Nat) : (t.linger d).txDrawn = t.txDrawn := by
  simp [Transport.linger]
@[simp] theorem Transport.linger_deadline (t : Transport) (d : Nat) : (t.linger d).deadline = t.deadline := by
  simp [Transport.linger]
@[simp] theorem Transport.linger_capture (t : Transport) (d : Nat) : (t.linger d).capture = t.capture := by
  simp [Transport.linger]
@[simp] theorem Transport.linger_sink (t : Transport) (d : Nat) : (t.linger d).sink = t.sink := by
  simp [Transport.linger]
@[simp] theorem Transport.linger_capTx (t : Transport) (d : Nat) : (t.linger d).capTx = t.capTx := by
  simp [Transport.linger]
@[simp] theorem Transport.linger_capRx (t : Transport) (d : Nat) : (t.linger d).capRx = t.capRx := by
  simp [Transport.linger]
@[simp] theorem Transport.linger_now (t : Transport) (d : Nat) : (t.linger d).now = (t.pass d).now := rfl
@[simp] theorem Transport.linger_rx (t : Transport) (d : Nat) :
    (t.linger d).rx = t.rx.modifyHead (sooner ((t.pass d).now - t.now)) := rfl

/-- Time goes by up to the deadline and no further (R50). -/
theorem Transport.pass_now (t : Transport) (d : Nat) : (t.pass d).now ≤ t.now + d := by
  unfold Transport.pass
  split
  · rename_i h
    unfold Transport.late at h
    unfold Transport.expire
    cases hd : t.deadline with
    | none => simp
    | some e =>
      simp only [hd, decide_eq_true_eq] at h
      simp only [Option.getD_some]
      omega
  · simp

/-- `TxWrite` cut off: a front of the bytes is buffered, and a front of what is buffered is on the line (U6). -/
theorem Transport.writeCut_shape (t : Transport) (s : List Byte) (c : Cut) :
    (t.writeCut s c).line = t.line ++ (t.outBuf ++ s.take c.accepted).take c.visible ∧
      (t.writeCut s c).line ++ (t.writeCut s c).outBuf = t.line ++ t.outBuf ++ s.take c.accepted ∧
      (t.writeCut s c).rx = t.rx := by
  simp [Transport.writeCut, Transport.show]

/-- `TxFlush` cut off: a front of what is buffered is on the line (U6). -/
theorem Transport.flushCut_shape (t : Transport) (c : Cut) :
    (t.flushCut c).line = t.line ++ t.outBuf.take c.visible ∧
      (t.flushCut c).line ++ (t.flushCut c).outBuf = t.line ++ t.outBuf ∧ (t.flushCut c).rx = t.rx := by
  simp [Transport.flushCut, Transport.show]

/-- `RxRead` cut off touches nothing of the output. -/
theorem Transport.readCut_sameOutput (k d : Nat) (t : Transport) : t.SameOutput (Transport.readCut k d t) := by
  induction k generalizing t with
  | zero => simp [Transport.readCut, Transport.SameOutput]
  | succ k ih =>
    have hn := t.nextRx_sameOutput
    unfold Transport.readCut
    split
    · rename_i gap b u h
      rw [h] at hn
      split
      · exact hn.trans (by simp [Transport.SameOutput])
      · exact (hn.trans ((Transport.captureRx_sameOutput { u with now := u.now + gap } [b]))).trans (ih _)
    · rename_i ev u _ h
      rw [h] at hn
      exact hn.trans (by simp [Transport.SameOutput])

/-- Bytes that have come in time when the read is cut off are consumed, and what follows them is still to come (U9). -/
theorem Transport.readCut_arrivals (got : Timed) (tail : List RxEvent) (d : Nat) (t : Transport)
    (hrx : t.rx = arrivals got ++ tail) (hl : t.late (waits got) = false) :
    Transport.readCut got.length d t =
      (({ t with rx := tail, now := t.now + waits got } : Transport).captureRx (octets got)).linger d := by
  induction got generalizing t with
  | nil =>
    have : ({ t with rx := tail, now := t.now + waits [] } : Transport).captureRx (octets []) = t := by
      rw [show octets [] = [] from rfl, Transport.captureRx_nil]
      cases t
      simp_all [arrivals, waits]
    rw [this]
    rfl
  | cons p got ih =>
    obtain ⟨gap, b⟩ := p
    have hw : waits ((gap, b) :: got) = gap + waits got := by simp [waits]
    have hn : t.nextRx = (.arrive gap b, { t with rx := arrivals got ++ tail }) := by
      simp [Transport.nextRx, hrx, arrivals]
    rw [hw, Transport.late_add] at hl
    simp only [List.length_cons, Transport.readCut, hn,
      show ({ t with rx := arrivals got ++ tail } : Transport).late gap = false from hl.1, Bool.false_eq_true, if_false]
    rw [ih _ (by simp) (by simpa [Transport.late] using hl.2)]
    congr 1
    cases t.capture <;> simp [Transport.captureRx, hw, octets, Nat.add_assoc]

end Sys2Proof.Machine
end

