-- ==== Sys2Proof/Laws/Sequencer.lean ====
section
/-! SUPPORT. What each row of R175 can do: one lemma per step function. -/

namespace Sys2Proof.Machine

/-- `TxWrite` touches only the transport and the transcript. -/
theorem State.txWrite_eq (s : State) (b : List Byte) :
    s.txWrite b =
      ((s.transport.write b).1, { s with calls := .txWrite b :: s.calls, transport := (s.transport.write b).2 }) := rfl

/-- `TxFlush` touches only the transport and the transcript. -/
theorem State.txFlush_eq (s : State) :
    s.txFlush = (s.transport.flush.1, { s with calls := .txFlush :: s.calls, transport := s.transport.flush.2 }) := rfl

/-- `RxRead` touches only the transport and the transcript. -/
theorem State.rxRead_eq (s : State) (n : Nat) :
    s.rxRead n =
      ((Transport.read n s.transport).1,
        { s with calls := .rxRead n :: s.calls, transport := (Transport.read n s.transport).2 }) := rfl

/-- `SEQ = TX_WRITE`: the write succeeds and `IDX` is the frame's length, or the operation ends. -/
theorem stepTxWrite_cases (s : State) :
    ∃ t, (stepTxWrite s = .next
        { s with calls := .txWrite s.txBytes :: s.calls, transport := t, idx := s.txlen, seq := .txFlush }) ∨
      ∃ e, stepTxWrite s = .next
        (({ s with calls := .txWrite s.txBytes :: s.calls, transport := t } : State).raise (IoErr.raised .txWrite e)) := by
  unfold stepTxWrite
  rw [State.txWrite_eq]
  rcases h : s.transport.write s.txBytes with ⟨r, t⟩
  cases r with
  | ok u => exact ⟨t, .inl rfl⟩
  | error e => exact ⟨t, .inr ⟨e, rfl⟩⟩

/-- `SEQ = TX_FLUSH`: the flush succeeds and `LogReq` follows, or the operation ends. -/
theorem stepTxFlush_cases (s : State) :
    ∃ t, (stepTxFlush s = .next
        { s with calls := .logReq :: .txFlush :: s.calls, transport := t, seq := .rxPrep }) ∨
      ∃ e, stepTxFlush s = .next
        (({ s with calls := .txFlush :: s.calls, transport := t } : State).raise (IoErr.raised .txFlush e)) := by
  unfold stepTxFlush
  rw [State.txFlush_eq]
  rcases h : s.transport.flush with ⟨r, t⟩
  cases r with
  | ok u => exact ⟨t.logReq, .inl rfl⟩
  | error e => exact ⟨t, .inr ⟨e, rfl⟩⟩

/-- A read of the sequencer that fits RXBUF: it fails and the operation ends, or the bytes are in RXBUF. -/
theorem State.receive_cases (s : State) (step : Seq) (a n : Nat) (k : State → Out) (h : a + n ≤ Config.bufSize) :
    ∃ t, (∃ e, s.receive step a n k = .next
        (({ s with calls := .rxRead n :: s.calls, transport := t } : State).raise (IoErr.raised step e))) ∨
      ∃ b : List Byte, b.length = n ∧ s.receive step a n k =
        k { s with
            calls := .rxRead n :: s.calls
            transport := t
            rxbuf := s.rxbuf.setBytes a b
            rxlen := BitVec.ofNat 8 (a + n)
            idx := BitVec.ofNat 8 (a + n) } := by
  unfold State.receive
  rw [State.rxRead_eq]
  rcases hr : Transport.read n s.transport with ⟨r, t⟩
  cases r with
  | error e => exact ⟨t, .inl ⟨e, rfl⟩⟩
  | ok b =>
    have hb := Transport.read_length hr
    refine ⟨t, .inr ⟨b, hb, ?_⟩⟩
    simp only [State.loadRx, Memory.write_eq, hb, if_pos h]

/-- A frame that fits TXBUF is loaded. -/
theorem State.loadTx_eq {s : State} {f : List Byte} (h : f.length ≤ Config.bufSize) :
    s.loadTx f = .next { s with txbuf := s.txbuf.setBytes 0 f, txlen := len8 f, seq := .txPrep } := by
  simp [State.loadTx, Memory.write_eq, h]

theorem envEncode_eq {addr : Word} {fn : Byte} {p : List Byte} {id : Half} (h : p.length ≤ Config.maxPayload) :
    envEncode addr fn p id =
      .ok (be32Bytes addr ++ [fn, BitVec.ofNat 8 (10 + p.length)] ++ p ++ be16Bytes id) := by
  simp [envEncode, Nat.not_lt.2 h, Config.overhead]

theorem requestFrame_length (addr : Word) (fn : Byte) (p : List Byte) (id : Half) :
    (requestFrame addr fn p id).length = 10 + p.length := by
  simp [requestFrame, withChecksum_length]; omega

/-- Steps 1 and 2 (R157, R158) for a payload that fits. -/
theorem State.buildRequest_eq {s : State} {fn : Byte} {p : List Byte} (h : p.length ≤ Config.maxPayload) :
    s.buildRequest fn p = .next
      { s with
        reqfn := fn
        mid := nextMid s.mid
        crcTx := crc16 (be32Bytes s.addr ++ [fn, BitVec.ofNat 8 (10 + p.length)] ++ p ++ be16Bytes (nextMid s.mid))
        txbuf := s.txbuf.setBytes 0 (requestFrame s.addr fn p (nextMid s.mid))
        txlen := BitVec.ofNat 8 (10 + p.length)
        seq := .txPrep } := by
  have hl := requestFrame_length s.addr fn p (nextMid s.mid)
  have hm : Config.maxPayload = 245 := rfl
  have hb : Config.bufSize = 255 := rfl
  unfold State.buildRequest
  rw [envEncode_eq h]
  have hx : (requestFrame s.addr fn p (nextMid s.mid)).length ≤ Config.bufSize := by omega
  have := State.loadTx_eq (s := { s with
    reqfn := fn, mid := nextMid s.mid
    crcTx := crc16 (be32Bytes s.addr ++ [fn, BitVec.ofNat 8 (10 + p.length)] ++ p ++ be16Bytes (nextMid s.mid)) }) hx
  simp only [len8, hl] at this
  exact this

/-- A foreign frame ends the operation only past the bound on skips (R165). -/
theorem State.skip_cases (s : State) :
    s.skip = { s with addrHit := false, skips := s.skips + 1, seq := .rxPrep } ∧
        overLimit s.params.maxSkips (s.skips + 1) = false ∨
      s.skip = ({ s with addrHit := false, skips := s.skips + 1 } : State).raise (.skipLimit (s.skips + 1)) ∧
        overLimit s.params.maxSkips (s.skips + 1) = true := by
  unfold State.skip
  cases h : overLimit s.params.maxSkips (s.skips + 1) <;> simp

theorem overLimit_iff {m : Option Nat} {n : Nat} : overLimit m n = true ↔ ∃ k, m = some k ∧ k < n := by
  cases m <;> simp [overLimit]

theorem overLimit_false_iff {m : Option Nat} {n : Nat} : overLimit m n = false ↔ ∀ k, m = some k → n ≤ k := by
  cases m <;> simp [overLimit]

/-- A read of the sequencer that fails ends the operation. -/
theorem State.receive_error {s : State} {q : Seq} {a n : Nat} {e : IoErr} {u : Transport} (k : State → Out)
    (h : Transport.read n s.transport = (.error e, u)) :
    s.receive q a n k =
      .next (({ s with calls := .rxRead n :: s.calls, transport := u } : State).raise (e.raised q)) := by
  unfold State.receive
  rw [State.rxRead_eq, h]

/-- Bytes that arrive in time are received into RXBUF (R161, R163). -/
theorem State.receive_arrivals {s : State} {q : Seq} {a : Nat} {ts : Timed} {rest : List RxEvent} (k : State → Out)
    (hrx : s.transport.rx = arrivals ts ++ rest) (hl : s.transport.late (waits ts) = false)
    (ha : a + ts.length ≤ Config.bufSize) :
    s.receive q a ts.length k = k { s with
      calls := .rxRead ts.length :: s.calls
      transport := ({ s.transport with rx := rest, now := s.transport.now + waits ts } : Transport).captureRx (octets ts)
      rxbuf := s.rxbuf.setBytes a (octets ts)
      rxlen := BitVec.ofNat 8 (a + ts.length)
      idx := BitVec.ofNat 8 (a + ts.length) } := by
  have hn : (octets ts).length = ts.length := by simp [octets]
  unfold State.receive
  rw [State.rxRead_eq, Transport.read_arrivals ts rest s.transport hrx hl]
  simp only [State.loadRx, Memory.write_eq, hn, if_pos ha]

end Sys2Proof.Machine
end

