-- ==== Sys2Proof/Laws/Frames.lean ====
section
/-! SUPPORT. The parts of a frame's bytes (R70, R82), and what the rows of R175 that act on a frame do with them. -/

namespace Sys2Proof.Machine

/-- All bytes of a frame but the last two (R72). -/
theorem frameBytes_checked (fn : Byte) (f : FrameFields) :
    (frameBytes fn f).take ((frameBytes fn f).length - 2) = checkedBytes fn f := by
  have : frameBytes fn f = checkedBytes fn f ++ le16Bytes f.checksum := by simp [frameBytes, checkedBytes]
  rw [this, List.length_append, le16Bytes_length, Nat.add_sub_cancel, List.take_left]

/-- The received checksum of a frame (R82). -/
theorem frameBytes_checksum (fn : Byte) (f : FrameFields) :
    le16At (frameBytes fn f) ((frameBytes fn f).length - 2) = f.checksum := by
  rw [frameBytes_length, show 10 + f.payload.length - 2 = f.payload.length + 8 by omega, le16At_frameBytes]

/-- The first payload byte, where an error frame has its code (R74). -/
theorem frameBytes_first {fn c : Byte} {f : FrameFields} {rest : List Byte} (h : f.payload = c :: rest) :
    byteAt (frameBytes fn f) 6 = c := by
  simp [frameBytes, be32Bytes, byteAt, h]

/-- The body of a frame (R82, R169). -/
theorem frameBytes_body (fn : Byte) (f : FrameFields) :
    ((frameBytes fn f).drop 6).take ((frameBytes fn f).length - 8) = f.payload ++ be16Bytes f.id := by
  have e : frameBytes fn f =
      (be32Bytes f.addr ++ [fn, f.len]) ++ ((f.payload ++ be16Bytes f.id) ++ le16Bytes f.checksum) := by
    simp [frameBytes]
  have d : (frameBytes fn f).drop 6 = (f.payload ++ be16Bytes f.id) ++ le16Bytes f.checksum := by
    rw [e]
    exact List.drop_left' (by simp)
  rw [d, frameBytes_length]
  exact List.take_left' (by simp; omega)

/-- The message id of a frame (R82). -/
theorem frameBytes_id (fn : Byte) (f : FrameFields) :
    be16At (frameBytes fn f) ((frameBytes fn f).length - 4) = f.id := by
  rw [frameBytes_length, show 10 + f.payload.length - 4 = f.payload.length + 6 by omega, be16At_frameBytes]

/-- `CRC.VERIFY` on a frame (R107, R166). -/
theorem State.verify_frame (s : State) (fn : Byte) (f : FrameFields) :
    s.verify (frameBytes fn f) =
      ({ s with
          crcRx := crc16 (checkedBytes fn f)
          calccrc := crc16 (checkedBytes fn f)
          recvcrc := f.checksum
          crcOk := decide (crc16 (checkedBytes fn f) = f.checksum) },
        if crc16 (checkedBytes fn f) = f.checksum then none
        else some (.checksum (crc16 (checkedBytes fn f)) f.checksum)) := by
  rw [State.verify_eq (by simp; omega), frameBytes_checked, frameBytes_checksum]

/-- The function match and the return on a frame (R168, R169). -/
theorem matchFunction_frame (s : State) (fn : Byte) (f : FrameFields) :
    matchFunction (frameBytes fn f) s =
      if fn = s.reqfn then
        ({ s with
            calls := .logResp :: s.calls
            transport := s.transport.logResp
            fnOk := true
            respmid := f.id
            bodylen := BitVec.ofNat 8 (f.payload.length + 2)
            paylen := BitVec.ofNat 8 f.payload.length } : State).finish (.bytes (f.payload ++ be16Bytes f.id))
      else s.raise (.protoMismatch s.reqfn fn) := by
  have e1 : (frameBytes fn f).length - 8 = f.payload.length + 2 := by simp; omega
  have e2 : (frameBytes fn f).length - 10 = f.payload.length := by simp
  simp only [matchFunction, frameBytes_fn, frameBytes_body, frameBytes_id]
  rw [e1, e2]
  rfl

/-- A frame instruction where an `EXEC` holds a frame is the row's operation (log 5). -/
theorem exec_held {i : Instr} {fn g : Byte} {f : FrameFields} {s : State} {p : List Byte}
    (h : i.frameOf = some (fn, f)) (ho : s.op = some (.execute g p))
    (hs : s.seq = .rxFilt ∨ s.seq = .chkCrc ∨ s.seq = .chkErr ∨ s.seq = .chkFn) :
    exec i s = frameStage (frameBytes fn f) s := by
  rw [exec_frame h, receiveFrame, if_pos ((State.holdsFrame_iff s).2 ⟨⟨_, _, ho⟩, hs⟩)]

@[simp] theorem State.rxBytes_length (s : State) : s.rxBytes.length = s.rxlen.toNat :=
  Memory.readBytes_length _ _ _ _

/-- A valid byte of RXBUF. -/
theorem State.rxBytes_byteAt {s : State} {i : Nat} (h : i < s.rxlen.toNat) :
    byteAt s.rxBytes i = s.rxbuf.read .rx i := by
  rw [byteAt, List.getD_eq_getElem?_getD, State.rxBytes, Memory.readBytes_getElem?, if_pos h]
  simp

/-- A frame put whole in a buffer reads back (R15, R16). -/
theorem Memory.readBytes_setBytes_len8 (sp : Space) {m : Memory} {b : List Byte} (hw : m.wf)
    (hb : b.length ≤ Config.bufSize) : (m.setBytes 0 b).readBytes sp 0 (len8 b).toNat = b := by
  have hb' : b.length ≤ 255 := hb
  rw [show (len8 b).toNat = b.length by simp only [len8, BitVec.toNat_ofNat]; omega]
  exact Memory.readBytes_setBytes_same sp 0 b hw (by simpa using hb)

end Sys2Proof.Machine
end

