-- ==== Sys2Proof/Laws/Rows.lean ====
section
/-! SUPPORT. Everything a step of the unit can do, said once: one constructor for each outcome of each row of R175, of
R180 and of R182. -/

namespace Sys2Proof.Machine

/-- The state before the row, seen by the next one, with a read of `n` bytes called. -/
def State.afterRead (s : State) (n : Nat) (u : Transport) : State :=
  { s.ticked with calls := .rxRead n :: s.calls, transport := u }

/-- `b` received at index `a` of RXBUF. -/
def State.withReceived (s : State) (a : Nat) (b : List Byte) : State :=
  { s with
    rxbuf := s.rxbuf.setBytes a b, rxlen := BitVec.ofNat 8 (a + b.length), idx := BitVec.ofNat 8 (a + b.length) }

/-- The outcomes of a step of the unit from `s`. -/
inductive Row (s : State) : State → Prop
  | idle : s.seq = .idle → Row s s.ticked
  | build (fn : Byte) (p : List Byte) : s.seq = .build → p.length ≤ 245 →
      (s.op = some (.execute fn p) ∨ s.op = some .model ∧ fn = s.params.modelFn ∧ p = s.params.modelPayload) →
      Row s { s.ticked with
        reqfn := fn
        mid := nextMid s.mid
        crcTx := crc16 (be32Bytes s.addr ++ [fn, BitVec.ofNat 8 (10 + p.length)] ++ p ++ be16Bytes (nextMid s.mid))
        txbuf := s.txbuf.setBytes 0 (requestFrame s.addr fn p (nextMid s.mid))
        txlen := BitVec.ofNat 8 (10 + p.length)
        seq := .txPrep }
  | buildDiscover : s.seq = .build → s.op = some .discover →
      Row s { s.ticked with
        txbuf := s.txbuf.setBytes 0 s.params.discReq, txlen := len8 s.params.discReq, seq := .txPrep }
  | txPrep : s.seq = .txPrep → Row s { s.ticked.prepWrite with idx := 0#8, seq := .txWrite }
  | txWrite (u : Transport) : s.seq = .txWrite →
      Row s { s.ticked with
        calls := .txWrite s.txBytes :: s.calls, transport := u, idx := s.txlen, seq := .txFlush }
  | txWriteFails (u : Transport) (e : IoErr) : s.seq = .txWrite →
      Row s (({ s.ticked with calls := .txWrite s.txBytes :: s.calls, transport := u } : State).raise
        (e.raised .txWrite))
  | txFlush (u : Transport) : s.seq = .txFlush →
      Row s { s.ticked with calls := .logReq :: .txFlush :: s.calls, transport := u, seq := .rxPrep }
  | txFlushFails (u : Transport) (e : IoErr) : s.seq = .txFlush →
      Row s (({ s.ticked with calls := .txFlush :: s.calls, transport := u } : State).raise (e.raised .txFlush))
  | rxPrep : s.seq = .rxPrep → Row s { s.ticked.prepRead with rxlen := 0#8, idx := 0#8, seq := .rxHdr }
  | readFails (n : Nat) (u : Transport) (e : IoErr) : s.readSize = some n →
      Row s ((s.afterRead n u).raise (e.raised s.seq))
  | header (fn : Byte) (p b : List Byte) (u : Transport) : s.op = some (.execute fn p) → s.seq = .rxHdr →
      b.length = 6 → Row s ((s.afterRead 6 u).withReceived 0 b).checkLength
  | remainder (fn : Byte) (p b : List Byte) (u : Transport) : s.op = some (.execute fn p) → s.seq = .rxBody →
      b.length = s.rem.toNat → Row s { (s.afterRead s.rem.toNat u).withReceived 6 b with seq := .rxFilt }
  | discovered (b : List Byte) (u : Transport) : s.op = some .discover → s.seq = .rxHdr →
      b.length = s.params.discRespLen →
      Row s { (s.afterRead s.params.discRespLen u).withReceived 0 b with seq := .chkCrc }
  | modelled (b : List Byte) (u : Transport) : s.op = some .model → s.seq = .rxHdr →
      b.length = s.params.modelRespLen →
      Row s { (s.afterRead s.params.modelRespLen u).withReceived 0 b with seq := .rxFilt }
  | filter (fn : Byte) (p : List Byte) : s.op = some (.execute fn p) → s.seq = .rxFilt →
      Row s (filterFrame s.rxBytes s.ticked)
  | check (fn : Byte) (p : List Byte) : s.op = some (.execute fn p) → s.seq = .chkCrc →
      Row s (checkFrame s.rxBytes s.ticked)
  | error (fn : Byte) (p : List Byte) : s.op = some (.execute fn p) → s.seq = .chkErr →
      Row s (errorTest s.rxBytes s.ticked)
  | function (fn : Byte) (p : List Byte) : s.op = some (.execute fn p) → s.seq = .chkFn →
      Row s (matchFunction s.rxBytes s.ticked)
  | modelFilter : s.op = some .model → s.seq = .rxFilt → Row s (filterModel s.rxBytes s.ticked)
  | modelCheck : s.op = some .model → s.seq = .chkCrc → Row s (checkModel s.rxBytes s.ticked)
  | discoverCheck : s.op = some .discover → s.seq = .chkCrc → Row s (checkDiscover s.rxBytes s.ticked)

/-- The five bounds of R79 that the steps need. -/
theorem Params.ok_bounds {p : Params} (h : p.ok = true) :
    p.discReq.length = 11 ∧ p.discAddrOff + 4 ≤ p.discRespLen ∧ p.discRespLen ≤ 255 ∧
      p.modelPayload.length ≤ 245 ∧ 4 ≤ p.modelRespLen ∧ p.modelRespLen ≤ 255 := by
  simpa [Params.ok, and_assoc] using h

/-- A read that fits RXBUF, as a row sees it. -/
theorem receive_row (s : State) (q : Seq) (a n : Nat) (k : State → Out) (h : a + n ≤ 255) :
    ∃ u, (∃ e : IoErr, s.ticked.receive q a n k = .next ((s.afterRead n u).raise (e.raised q))) ∨
      ∃ b : List Byte, b.length = n ∧ s.ticked.receive q a n k = k ((s.afterRead n u).withReceived a b) := by
  obtain ⟨u, ⟨e, he⟩ | ⟨b, hb, h1⟩⟩ := State.receive_cases s.ticked q a n k h
  · exact ⟨u, .inl ⟨e, he⟩⟩
  · refine ⟨u, .inr ⟨b, hb, ?_⟩⟩
    rw [h1]
    subst hb
    rfl

/-- A step of the unit has one of the outcomes of its row, from any state whose operation in flight has that row. -/
theorem step_row {s : State} (hl : s.landing = none) (hp : s.params.ok = true) (hs : s.atOwnStep = true)
    (hpay : ∀ fn p, s.op = some (.execute fn p) → p.length ≤ 245) (hrem : s.seq = .rxBody → s.rem.toNat ≤ 249) :
    ∃ t, step s = .next t ∧ Row s t := by
  obtain ⟨p1, -, p3, p4, -, p6⟩ := Params.ok_bounds hp
  cases hq : s.seq with
  | idle => exact ⟨_, step_idle hl hq, .idle hq⟩
  | build =>
    rw [step_build hl hq, stepBuild, State.ticked_op]
    cases ho : s.op with
    | none => simp [State.atOwnStep, ho, hq] at hs
    | some o =>
      cases o with
      | execute fn p => exact ⟨_, State.buildRequest_eq (hpay fn p ho), .build fn p hq (hpay fn p ho) (.inl ho)⟩
      | discover =>
        exact ⟨_, State.loadTx_eq (s := s.ticked) (show s.params.discReq.length ≤ 255 by omega), .buildDiscover hq ho⟩
      | model => exact ⟨_, State.buildRequest_eq (s := s.ticked) p4, .build _ _ hq p4 (.inr ⟨ho, rfl, rfl⟩)⟩
  | txPrep => exact ⟨_, step_txPrep hl hq, .txPrep hq⟩
  | txWrite =>
    obtain ⟨u, h | ⟨e, h⟩⟩ := stepTxWrite_cases s.ticked
    · exact ⟨_, (step_txWrite hl hq).trans h, .txWrite u hq⟩
    · exact ⟨_, (step_txWrite hl hq).trans h, .txWriteFails u e hq⟩
  | txFlush =>
    obtain ⟨u, h | ⟨e, h⟩⟩ := stepTxFlush_cases s.ticked
    · exact ⟨_, (step_txFlush hl hq).trans h, .txFlush u hq⟩
    · exact ⟨_, (step_txFlush hl hq).trans h, .txFlushFails u e hq⟩
  | rxPrep => exact ⟨_, step_rxPrep hl hq, .rxPrep hq⟩
  | rxHdr =>
    rw [step_rxHdr hl hq, stepRxHdr, State.ticked_op]
    cases ho : s.op with
    | none => simp [State.atOwnStep, ho, hq] at hs
    | some o =>
      cases o with
      | execute fn p =>
        obtain ⟨u, ⟨e, h⟩ | ⟨b, hb, h⟩⟩ := receive_row s .rxHdr 0 6 (fun t => .next t.checkLength) (by decide)
        · exact ⟨_, h, hq ▸ .readFails 6 u e (by simp [State.readSize, ho, hq])⟩
        · exact ⟨_, h, .header fn p b u ho hq hb⟩
      | discover =>
        obtain ⟨u, ⟨e, h⟩ | ⟨b, hb, h⟩⟩ := receive_row s .rxHdr 0 s.params.discRespLen
          (fun t => .next { t with seq := .chkCrc }) (by omega)
        · exact ⟨_, h, hq ▸ .readFails _ u e (by simp [State.readSize, ho, hq])⟩
        · exact ⟨_, h, .discovered b u ho hq hb⟩
      | model =>
        obtain ⟨u, ⟨e, h⟩ | ⟨b, hb, h⟩⟩ := receive_row s .rxHdr 0 s.params.modelRespLen
          (fun t => .next { t with seq := .rxFilt }) (by omega)
        · exact ⟨_, h, hq ▸ .readFails _ u e (by simp [State.readSize, ho, hq])⟩
        · exact ⟨_, h, .modelled b u ho hq hb⟩
  | rxBody =>
    rw [step_rxBody hl hq, stepRxBody]
    obtain ⟨fn, p, ho⟩ : ∃ fn p, s.op = some (.execute fn p) := by
      unfold State.atOwnStep at hs
      rw [hq] at hs
      split at hs <;> simp_all
    obtain ⟨u, ⟨e, h⟩ | ⟨b, hb, h⟩⟩ := receive_row s .rxBody 6 s.rem.toNat
      (fun t => .next { t with seq := .rxFilt }) (by have := hrem hq; omega)
    · exact ⟨_, h, hq ▸ .readFails _ u e (by simp [State.readSize, ho, hq])⟩
    · exact ⟨_, h, .remainder fn p b u ho hq hb⟩
  | rxFilt =>
    cases ho : s.op with
    | none => simp [State.atOwnStep, ho, hq] at hs
    | some o =>
      cases o with
      | execute fn p =>
        rw [step_held hl ((State.holdsFrame_iff s).2 ⟨⟨fn, p, ho⟩, .inl hq⟩)]
        exact ⟨_, by simp only [frameStage, State.ticked_seq, hq], .filter fn p ho hq⟩
      | discover => simp [State.atOwnStep, ho, hq] at hs
      | model =>
        rw [step_advance hl (by simp [State.holdsFrame, ho])]
        exact ⟨_, by simp only [advance, stepResponse, State.ticked_seq, State.ticked_op, State.ticked_rxBytes, hq, ho],
          .modelFilter ho hq⟩
  | chkCrc =>
    cases ho : s.op with
    | none => simp [State.atOwnStep, ho, hq] at hs
    | some o =>
      cases o with
      | execute fn p =>
        rw [step_held hl ((State.holdsFrame_iff s).2 ⟨⟨fn, p, ho⟩, .inr (.inl hq)⟩)]
        exact ⟨_, by simp only [frameStage, State.ticked_seq, hq], .check fn p ho hq⟩
      | discover =>
        rw [step_advance hl (by simp [State.holdsFrame, ho])]
        exact ⟨_, by simp only [advance, stepResponse, State.ticked_seq, State.ticked_op, State.ticked_rxBytes, hq, ho],
          .discoverCheck ho hq⟩
      | model =>
        rw [step_advance hl (by simp [State.holdsFrame, ho])]
        exact ⟨_, by simp only [advance, stepResponse, State.ticked_seq, State.ticked_op, State.ticked_rxBytes, hq, ho],
          .modelCheck ho hq⟩
  | chkErr =>
    obtain ⟨fn, p, ho⟩ : ∃ fn p, s.op = some (.execute fn p) := by
      unfold State.atOwnStep at hs
      rw [hq] at hs
      split at hs <;> simp_all
    rw [step_held hl ((State.holdsFrame_iff s).2 ⟨⟨fn, p, ho⟩, .inr (.inr (.inl hq))⟩)]
    exact ⟨_, by simp only [frameStage, State.ticked_seq, hq], .error fn p ho hq⟩
  | chkFn =>
    obtain ⟨fn, p, ho⟩ : ∃ fn p, s.op = some (.execute fn p) := by
      unfold State.atOwnStep at hs
      rw [hq] at hs
      split at hs <;> simp_all
    rw [step_held hl ((State.holdsFrame_iff s).2 ⟨⟨fn, p, ho⟩, .inr (.inr (.inr hq))⟩)]
    exact ⟨_, by simp only [frameStage, State.ticked_seq, hq], .function fn p ho hq⟩

end Sys2Proof.Machine
end

