-- ==== Sys2Proof/Laws/Invariant.lean ====
section
/-! SUPPORT. What keeps the invariant of Safety.lean: the ends of an operation, the shared operations of an immediate
command, and each row of R175, R180 and R182. -/

namespace Sys2Proof.Machine

/-- The part of the invariant that does not speak of an operation in flight. -/
structure State.Base (s : State) : Prop where
  params : s.params.ok = true
  txbuf : s.txbuf.wf
  rxbuf : s.rxbuf.wf
  txValid : ∀ i, i < s.txlen.toNat → (s.txbuf.get? i).isSome = true
  rxValid : ∀ i, i < s.rxlen.toNat → (s.rxbuf.get? i).isSome = true

theorem State.Inv.base {s : State} (h : s.Inv) : s.Base := ⟨h.params, h.txbuf, h.rxbuf, h.txValid, h.rxValid⟩

/-- With no operation in flight the rest of the invariant says nothing. -/
theorem State.Base.idle {t : State} (h : t.Base) (hb : t.busy = false) (hs : t.seq = .idle) (ho : t.op = none) :
    t.Inv where
  params := h.params
  txbuf := h.txbuf
  rxbuf := h.rxbuf
  busy := by simp [hb, hs]
  step := by simp [State.atOwnStep, hs, ho]
  bound := by simp [ho]
  payload := by simp [ho]
  reqfn := by simp [ho]
  txValid := h.txValid
  rxValid := h.rxValid
  header := by simp [hs]
  frame := by simp [State.holdsFrame, ho]
  discovered := by simp [ho]
  modelled := by simp [ho]
  idx := by simp [hs]
  noError := by simp [hs]
  skips := by simp [hb]

/-- The invariant says nothing of what the host will do. -/
theorem State.Inv.withInputs {s : State} (h : s.Inv) (l : List Input) : ({ s with inputs := l } : State).Inv :=
  ⟨h.params, h.txbuf, h.rxbuf, h.busy, h.step, h.bound, h.payload, h.reqfn, h.txValid, h.rxValid, h.header, h.frame,
    h.discovered, h.modelled, h.idx, h.noError, h.skips⟩

theorem State.Inv.ticked {s : State} (h : s.Inv) : s.ticked.Inv := h.withInputs _

/-- With `BUSY` 0 the unit is in `IDLE` and nothing is in flight (R24). -/
theorem State.Inv.notBusy {s : State} (h : s.Inv) (hb : s.busy = false) : s.seq = .idle ∧ s.op = none := by
  have hs : s.seq = .idle := by
    by_contra hne
    exact absurd (h.busy.2 hne) (by simp [hb])
  have := h.step
  unfold State.atOwnStep at this
  rw [hs] at this
  split at this <;> simp_all

/-! ### The ends of an operation -/

theorem State.Base.raise {t : State} (h : t.Base) (e : Err) : (t.raise e).Inv :=
  State.Base.idle ⟨h.params, h.txbuf, h.rxbuf, h.txValid, h.rxValid⟩ rfl rfl rfl

theorem State.Base.finish {t : State} (h : t.Base) (v : Value) : (t.finish v).Inv :=
  State.Base.idle ⟨h.params, h.txbuf, h.rxbuf, h.txValid, h.rxValid⟩ rfl rfl rfl

theorem State.Base.verify {s : State} (h : s.Base) (f : List Byte) : (s.verify f).1.Base := by
  rw [State.verify_same s f]
  exact ⟨h.params, h.txbuf, h.rxbuf, h.txValid, h.rxValid⟩

/-- The fields that an operation which completes at once leaves alone (R27). -/
def State.SameFrame (s t : State) : Prop :=
  t.params = s.params ∧ t.txbuf = s.txbuf ∧ t.rxbuf = s.rxbuf ∧ t.txlen = s.txlen ∧ t.rxlen = s.rxlen ∧
    t.busy = s.busy ∧ t.seq = s.seq ∧ t.op = s.op

/-- An operation that completes at once keeps the invariant when it returns. -/
theorem State.Inv.ret {s t : State} (h : s.Inv) (hb : s.busy = false) (e : s.SameFrame t) (v : Value) :
    (t.ret v).Inv := by
  obtain ⟨hs, ho⟩ := h.notBusy hb
  obtain ⟨e1, e2, e3, e4, e5, e6, e7, e8⟩ := e
  refine State.Base.idle ⟨?_, ?_, ?_, ?_, ?_⟩ ?_ ?_ ?_
  · simp [e1, h.params]
  · simpa [e2] using h.txbuf
  · simpa [e3] using h.rxbuf
  · simpa [e2, e4] using h.txValid
  · simpa [e3, e5] using h.rxValid
  · simp [e6, hb]
  · simp [e7, hs]
  · simp [e8, ho]

/-- A codec operation keeps the invariant. -/
theorem State.Inv.conclude {s : State} (h : s.Inv) (hb : s.busy = false) (r : Except Err Value) :
    (s.conclude r).Inv := by
  cases r with
  | ok v => exact h.ret hb ⟨rfl, rfl, rfl, rfl, rfl, rfl, rfl, rfl⟩ v
  | error e => exact h.base.raise e

/-- A command keeps the invariant when it does while `BUSY` is 0 (R270). -/
theorem State.Inv.unlessBusy {s t : State} (h : s.Inv) (ht : s.busy = false → t.Inv) :
    ∃ u, Machine.unlessBusy s t = .next u ∧ u.Inv := by
  unfold Machine.unlessBusy
  cases hb : s.busy
  · exact ⟨_, rfl, ht hb⟩
  · exact ⟨_, rfl, ⟨h.params, h.txbuf, h.rxbuf, h.busy, h.step, h.bound, h.payload, h.reqfn, h.txValid, h.rxValid,
      h.header, h.frame, h.discovered, h.modelled, h.idx, h.noError, h.skips⟩⟩

/-! ### The rows -/

/-- What a row with a next step owes to the invariant. -/
theorem State.Inv.next {s t : State} (h : s.Inv) (hs : s.seq ≠ .idle) (hb : t.Base) (ht : t.seq ≠ .idle)
    (same : t.busy = s.busy ∧ t.op = s.op ∧ t.addrV = s.addrV ∧ t.params = s.params)
    (step : t.atOwnStep = true) (reqfn : ∀ fn p, s.op = some (.execute fn p) → t.reqfn = fn)
    (header : t.seq = .rxBody → t.rxlen = 6#8 ∧ 5 ≤ t.rem.toNat ∧ t.rem.toNat ≤ 249 ∧
      (t.rxbuf.read .rx 5).toNat = t.rem.toNat + 6)
    (frame : t.holdsFrame = true → 11 ≤ t.rxlen.toNat ∧ t.rxbuf.read .rx 5 = t.rxlen)
    (discovered : s.op = some .discover → t.seq = .chkCrc → t.rxlen.toNat = s.params.discRespLen)
    (modelled : s.op = some .model → t.seq = .rxFilt ∨ t.seq = .chkCrc → t.rxlen.toNat = s.params.modelRespLen)
    (idx : t.seq = .rxHdr ∨ t.seq = .rxBody → t.idx = t.rxlen)
    (noError : t.seq = .chkFn → t.rxbuf.read .rx 4 ≠ Config.fnError)
    (skips : ∀ m, s.params.maxSkips = some m → t.skips ≤ m) : t.Inv := by
  obtain ⟨e1, e2, e3, e4⟩ := same
  have hbusy : s.busy = true := h.busy.2 hs
  exact {
    params := hb.params
    txbuf := hb.txbuf
    rxbuf := hb.rxbuf
    busy := by simp [e1, hbusy, ht]
    step := step
    bound := by rw [e2, e3]; exact h.bound
    payload := by rw [e2]; exact h.payload
    reqfn := fun fn p ho _ => reqfn fn p (e2 ▸ ho)
    txValid := hb.txValid
    rxValid := hb.rxValid
    header := header
    frame := frame
    discovered := by rw [e2, e4]; exact discovered
    modelled := by rw [e2, e4]; exact modelled
    idx := idx
    noError := noError
    skips := by rw [e4]; exact fun m hm _ => skips m hm }

/-- A running loop is within the bound on skips. -/
theorem State.Inv.within {s : State} (h : s.Inv) (hs : s.seq ≠ .idle) (m : Nat) (hm : s.params.maxSkips = some m) :
    s.skips ≤ m := h.skips m hm (h.busy.2 hs)

theorem State.holdsFrame_seq {s : State} (h : s.holdsFrame = true) :
    s.seq = .rxFilt ∨ s.seq = .chkCrc ∨ s.seq = .chkErr ∨ s.seq = .chkFn := ((State.holdsFrame_iff s).1 h).2

/-- The steps at which the invariant says nothing of RXBUF. -/
def Seq.plain : Seq → Bool
  | .txPrep | .txWrite | .txFlush | .rxPrep | .rxHdr => true
  | .idle | .build | .rxBody | .rxFilt | .chkCrc | .chkErr | .chkFn => false

/-- A row that goes to such a step. -/
theorem State.Inv.plainNext {s t : State} (h : s.Inv) (hs : s.seq ≠ .idle) (hb : t.Base) (ht : t.seq.plain = true)
    (same : t.busy = s.busy ∧ t.op = s.op ∧ t.addrV = s.addrV ∧ t.params = s.params)
    (reqfn : ∀ fn p, s.op = some (.execute fn p) → t.reqfn = fn) (idx : t.seq = .rxHdr → t.idx = t.rxlen)
    (skips : ∀ m, s.params.maxSkips = some m → t.skips ≤ m) : t.Inv := by
  have hop : s.op ≠ none := by
    intro e
    have := h.step
    unfold State.atOwnStep at this
    rw [e] at this
    revert this hs
    cases s.seq <;> simp
  have hq : t.seq = .txPrep ∨ t.seq = .txWrite ∨ t.seq = .txFlush ∨ t.seq = .rxPrep ∨ t.seq = .rxHdr := by
    revert ht
    cases t.seq <;> simp [Seq.plain]
  have hstep : t.atOwnStep = true := by
    unfold State.atOwnStep
    rw [same.2.1]
    rcases ho : s.op with _ | o
    · exact absurd ho hop
    · cases o <;> rcases hq with hq | hq | hq | hq | hq <;> rw [hq]
  have hf : t.holdsFrame = true → False := fun hh => by
    have := State.holdsFrame_seq hh
    rcases hq with hq | hq | hq | hq | hq <;> simp [hq] at this
  refine h.next hs hb ?_ same hstep reqfn ?_ (fun hh => (hf hh).elim) ?_ ?_ ?_ ?_ skips
  all_goals rcases hq with hq | hq | hq | hq | hq <;> simp [hq]
  exact idx hq

/-- A buffer that holds `b` from its start on holds a byte at every index below the length of `b`. -/
theorem Memory.setBytes_valid {m : Memory} {b : List Byte} {n : Nat} (h : m.wf) (hb : b.length ≤ 255)
    (hn : n = b.length) (i : Nat) (hi : i < n) : ((m.setBytes 0 b).get? i).isSome = true := by
  rw [Memory.get?_setBytes _ _ _ h (by simpa using hb), if_pos (by omega)]
  simp
  omega

/-- Received bytes keep the buffers as the invariant wants them. -/
theorem State.Base.received {s : State} (h : s.Base) (a : Nat) (b : List Byte) (ha : a + b.length ≤ 255)
    (hv : ∀ i, i < a → (s.rxbuf.get? i).isSome = true) (n : Nat) (u : Transport) :
    ((s.afterRead n u).withReceived a b).Base := by
  refine ⟨h.params, h.txbuf, Memory.wf_setBytes h.rxbuf ha, h.txValid, fun i hi => ?_⟩
  have hi' : i < a + b.length := by
    simp only [State.withReceived, BitVec.toNat_ofNat] at hi
    omega
  simp only [State.withReceived, State.afterRead, State.ticked_rxbuf]
  rw [Memory.get?_setBytes _ _ _ h.rxbuf ha]
  split
  · simp
    omega
  · exact hv i (by omega)

/-- Behind `BUILD` the request's function code is latched (R13). -/
theorem State.Inv.latched {s : State} (h : s.Inv) (hs : s.seq.pastBuild = true) (fn : Byte) (p : List Byte)
    (ho : s.op = some (.execute fn p)) : s.reqfn = fn := h.reqfn fn p ho hs

/-- `BUILD` of a request (R157, R158, R182). -/
theorem State.Inv.build {s : State} (h : s.Inv) {fn : Byte} {p : List Byte} (hs : s.seq = .build)
    (hp : p.length ≤ 245)
    (ho : s.op = some (.execute fn p) ∨ s.op = some .model ∧ fn = s.params.modelFn ∧ p = s.params.modelPayload)
    (m crc : Half) :
    State.Inv { s.ticked with
      reqfn := fn
      mid := m
      crcTx := crc
      txbuf := s.txbuf.setBytes 0 (requestFrame s.addr fn p m)
      txlen := BitVec.ofNat 8 (10 + p.length)
      seq := .txPrep } := by
  have hlen := requestFrame_length s.addr fn p m
  refine h.ticked.plainNext (by simp [hs]) ⟨h.params, ?_, h.rxbuf, ?_, h.rxValid⟩ rfl ⟨rfl, rfl, rfl, rfl⟩ ?_ (by simp)
    (h.within (by simp [hs]))
  · exact Memory.wf_setBytes h.txbuf (by rw [hlen]; show _ ≤ 255; omega)
  · exact Memory.setBytes_valid h.txbuf (by omega) (by simp [hlen]; omega)
  · intro fn' p' ho'
    rcases ho with ho | ⟨ho, -⟩ <;> simp_all

/-- `BUILD` of the discovery request (R180). -/
theorem State.Inv.buildDiscover {s : State} (h : s.Inv) (hs : s.seq = .build) (ho : s.op = some .discover) :
    State.Inv { s.ticked with
      txbuf := s.txbuf.setBytes 0 s.params.discReq, txlen := len8 s.params.discReq, seq := .txPrep } := by
  obtain ⟨p1, -⟩ := Params.ok_bounds h.params
  refine h.ticked.plainNext (by simp [hs]) ⟨h.params, ?_, h.rxbuf, ?_, h.rxValid⟩ rfl ⟨rfl, rfl, rfl, rfl⟩ ?_ (by simp)
    (h.within (by simp [hs]))
  · exact Memory.wf_setBytes h.txbuf (by rw [p1]; decide)
  · exact Memory.setBytes_valid h.txbuf (by omega) (by simp [len8, p1])
  · intro fn p ho'
    exact absurd (ho.symm.trans ho') (by simp)

/-- The three rows that send (R159). -/
theorem State.Inv.txPrep {s : State} (h : s.Inv) (hs : s.seq = .txPrep) :
    State.Inv { s.ticked.prepWrite with idx := 0#8, seq := .txWrite } :=
  h.ticked.plainNext (by simp [hs]) ⟨h.params, h.txbuf, h.rxbuf, h.txValid, h.rxValid⟩ rfl ⟨rfl, rfl, rfl, rfl⟩
    (h.latched (by simp [hs, Seq.pastBuild])) (by simp) (h.within (by simp [hs]))

theorem State.Inv.txWrite {s : State} (h : s.Inv) (hs : s.seq = .txWrite) (u : Transport) :
    State.Inv { s.ticked with
      calls := .txWrite s.txBytes :: s.calls, transport := u, idx := s.txlen, seq := .txFlush } :=
  h.ticked.plainNext (by simp [hs]) ⟨h.params, h.txbuf, h.rxbuf, h.txValid, h.rxValid⟩ rfl ⟨rfl, rfl, rfl, rfl⟩
    (h.latched (by simp [hs, Seq.pastBuild])) (by simp) (h.within (by simp [hs]))

theorem State.Inv.txFlush {s : State} (h : s.Inv) (hs : s.seq = .txFlush) (u : Transport) :
    State.Inv { s.ticked with calls := .logReq :: .txFlush :: s.calls, transport := u, seq := .rxPrep } :=
  h.ticked.plainNext (by simp [hs]) ⟨h.params, h.txbuf, h.rxbuf, h.txValid, h.rxValid⟩ rfl ⟨rfl, rfl, rfl, rfl⟩
    (h.latched (by simp [hs, Seq.pastBuild])) (by simp) (h.within (by simp [hs]))

/-- A primitive that fails ends the operation (R240). -/
theorem State.Inv.ioFails {s : State} (h : s.Inv) (c : List TifCall) (u : Transport) (e : Err) :
    (({ s.ticked with calls := c, transport := u } : State).raise e).Inv :=
  State.Base.raise (by exact ⟨h.params, h.txbuf, h.rxbuf, h.txValid, h.rxValid⟩) e

/-- `RX_PREP` (R161). -/
theorem State.Inv.rxPrep {s : State} (h : s.Inv) (hs : s.seq = .rxPrep) :
    State.Inv { s.ticked.prepRead with rxlen := 0#8, idx := 0#8, seq := .rxHdr } :=
  h.ticked.plainNext (by simp [hs]) ⟨h.params, h.txbuf, h.rxbuf, h.txValid, by simp⟩ rfl ⟨rfl, rfl, rfl, rfl⟩
    (h.latched (by simp [hs, Seq.pastBuild])) (by simp) (h.within (by simp [hs]))

/-- `RX_HDR` of `EXEC` (R161, R162). -/
theorem State.Inv.rxHdr {s : State} (h : s.Inv) {fn : Byte} {p b : List Byte} (ho : s.op = some (.execute fn p))
    (hs : s.seq = .rxHdr) (hb : b.length = 6) (u : Transport) :
    ((s.afterRead 6 u).withReceived 0 b).checkLength.Inv := by
  have hbase := h.base.received 0 b (by omega) (by simp) 6 u
  simp only [State.checkLength]
  split
  · exact hbase.raise _
  · rename_i h11
    replace h11 : 11 ≤ (((s.afterRead 6 u).withReceived 0 b).rxbuf.read .rx 5).toNat := by simpa using h11
    have hlt := (((s.afterRead 6 u).withReceived 0 b).rxbuf.read .rx 5).isLt
    refine h.ticked.next (by simp [hs]) ⟨hbase.params, hbase.txbuf, hbase.rxbuf, hbase.txValid, hbase.rxValid⟩ (by simp)
      ⟨rfl, rfl, rfl, rfl⟩ (by simp [State.withReceived, State.afterRead, State.atOwnStep, ho])
      (h.latched (by simp [hs, Seq.pastBuild])) ?_ (fun hh => by simpa using State.holdsFrame_seq hh) (by simp) (by simp)
      (fun _ => rfl) (by simp) (h.within (by simp [hs]))
    intro _
    generalize ((s.afterRead 6 u).withReceived 0 b).rxbuf.read .rx 5 = l at *
    refine ⟨by simp [State.withReceived, hb], ?_, ?_, ?_⟩
    · simp only [BitVec.toNat_sub, BitVec.toNat_ofNat]
      omega
    · simp only [BitVec.toNat_sub, BitVec.toNat_ofNat]
      omega
    · show l.toNat = _
      simp only [BitVec.toNat_sub, BitVec.toNat_ofNat]
      omega

/-- `RX_BODY` (R163): a whole frame is in RXBUF. -/
theorem State.Inv.rxBody {s : State} (h : s.Inv) {fn : Byte} {p b : List Byte} (ho : s.op = some (.execute fn p))
    (hs : s.seq = .rxBody) (hb : b.length = s.rem.toNat) (u : Transport) :
    State.Inv { (s.afterRead s.rem.toNat u).withReceived 6 b with seq := .rxFilt } := by
  obtain ⟨h1, h2, h3, h4⟩ := h.header hs
  have hbase := h.base.received 6 b (by omega) (fun i hi => h.rxValid i (by rw [h1]; exact hi)) s.rem.toNat u
  have hl : (BitVec.ofNat 8 (6 + b.length)).toNat = 6 + s.rem.toNat := by
    simp only [BitVec.toNat_ofNat]
    omega
  have h5 : (s.rxbuf.setBytes 6 b).read .rx 5 = s.rxbuf.read .rx 5 :=
    Memory.read_setBytes_other _ _ _ _ h.rxbuf (show 6 + b.length ≤ 255 by omega) (.inl (by decide))
  refine h.ticked.next (by simp [hs]) ⟨hbase.params, hbase.txbuf, hbase.rxbuf, hbase.txValid, hbase.rxValid⟩ (by simp)
    ⟨rfl, rfl, rfl, rfl⟩ (by simp [State.withReceived, State.afterRead, State.atOwnStep, ho])
    (h.latched (by simp [hs, Seq.pastBuild])) (by simp) (fun _ => ⟨?_, ?_⟩) (by simp)
    (fun hm => absurd (ho.symm.trans hm) (by simp)) (by simp) (by simp) (h.within (by simp [hs]))
  · show 11 ≤ (BitVec.ofNat 8 (6 + b.length)).toNat
    omega
  · show (s.rxbuf.setBytes 6 b).read .rx 5 = BitVec.ofNat 8 (6 + b.length)
    apply BitVec.eq_of_toNat_eq
    rw [hl, h5]
    omega

/-- `RX_HDR` of `DISCOVER` (R180). -/
theorem State.Inv.discovery {s : State} (h : s.Inv) {b : List Byte} (ho : s.op = some .discover) (hs : s.seq = .rxHdr)
    (hb : b.length = s.params.discRespLen) (u : Transport) :
    State.Inv { (s.afterRead s.params.discRespLen u).withReceived 0 b with seq := .chkCrc } := by
  obtain ⟨-, -, p3, -⟩ := Params.ok_bounds h.params
  have hbase := h.base.received 0 b (by omega) (by simp) s.params.discRespLen u
  refine h.ticked.next (by simp [hs]) ⟨hbase.params, hbase.txbuf, hbase.rxbuf, hbase.txValid, hbase.rxValid⟩ (by simp)
    ⟨rfl, rfl, rfl, rfl⟩ (by simp [State.withReceived, State.afterRead, State.atOwnStep, ho])
    (fun fn p ho' => absurd (ho.symm.trans ho') (by simp)) (by simp) (fun hh => ?_) (fun _ _ => ?_)
    (fun hm => absurd (ho.symm.trans hm) (by simp)) (by simp) (by simp) (h.within (by simp [hs]))
  · obtain ⟨⟨fn, p, ho'⟩, -⟩ := (State.holdsFrame_iff _).1 hh
    exact absurd (ho.symm.trans ho') (by simp)
  · show (BitVec.ofNat 8 (0 + b.length)).toNat = s.params.discRespLen
    simp only [BitVec.toNat_ofNat]
    omega

/-- `RX_HDR` of `MODEL` (R182). -/
theorem State.Inv.modelResponse {s : State} (h : s.Inv) {b : List Byte} (ho : s.op = some .model)
    (hs : s.seq = .rxHdr) (hb : b.length = s.params.modelRespLen) (u : Transport) :
    State.Inv { (s.afterRead s.params.modelRespLen u).withReceived 0 b with seq := .rxFilt } := by
  obtain ⟨-, -, -, -, -, p6⟩ := Params.ok_bounds h.params
  have hbase := h.base.received 0 b (by omega) (by simp) s.params.modelRespLen u
  refine h.ticked.next (by simp [hs]) ⟨hbase.params, hbase.txbuf, hbase.rxbuf, hbase.txValid, hbase.rxValid⟩ (by simp)
    ⟨rfl, rfl, rfl, rfl⟩ (by simp [State.withReceived, State.afterRead, State.atOwnStep, ho])
    (fun fn p ho' => absurd (ho.symm.trans ho') (by simp)) (by simp) (fun hh => ?_) (by simp) (fun _ _ => ?_) (by simp)
    (by simp) (h.within (by simp [hs]))
  · obtain ⟨⟨fn, p, ho'⟩, -⟩ := (State.holdsFrame_iff _).1 hh
    exact absurd (ho.symm.trans ho') (by simp)
  · show (BitVec.ofNat 8 (0 + b.length)).toNat = s.params.modelRespLen
    simp only [BitVec.toNat_ofNat]
    omega

/-- A foreign frame (R164, R165). -/
theorem State.Inv.skip {s : State} (h : s.Inv) (hs : s.seq = .rxFilt) : s.skip.Inv := by
  obtain ⟨e, hm⟩ | ⟨e, -⟩ := State.skip_cases s
  · rw [e]
    exact h.plainNext (by simp [hs]) ⟨h.params, h.txbuf, h.rxbuf, h.txValid, h.rxValid⟩ rfl ⟨rfl, rfl, rfl, rfl⟩
      (h.latched (by simp [hs, Seq.pastBuild])) (by simp) (overLimit_false_iff.1 hm)
  · rw [e]
    exact State.Base.raise (by exact ⟨h.params, h.txbuf, h.rxbuf, h.txValid, h.rxValid⟩) _

/-- A row of `EXEC` that keeps the frame in hand and goes to `q`. -/
theorem State.Inv.keepFrame {s t : State} (h : s.Inv) {fn : Byte} {p : List Byte} (ho : s.op = some (.execute fn p))
    (hs : s.holdsFrame = true) (hq : t.seq = .chkCrc ∨ t.seq = .chkErr ∨ t.seq = .chkFn)
    (same : t.busy = s.busy ∧ t.op = s.op ∧ t.addrV = s.addrV ∧ t.params = s.params)
    (keep : t.txbuf = s.txbuf ∧ t.rxbuf = s.rxbuf ∧ t.txlen = s.txlen ∧ t.rxlen = s.rxlen ∧ t.reqfn = s.reqfn ∧
      t.skips = s.skips)
    (noError : t.seq = .chkFn → s.rxbuf.read .rx 4 ≠ Config.fnError) : t.Inv := by
  obtain ⟨k1, k2, k3, k4, k5, k6⟩ := keep
  have hseq := State.holdsFrame_seq hs
  have hidle : s.seq ≠ .idle := by rcases hseq with e | e | e | e <;> simp [e]
  refine h.next hidle ⟨same.2.2.2 ▸ h.params, k1 ▸ h.txbuf, k2 ▸ h.rxbuf, by rw [k1, k3]; exact h.txValid,
    by rw [k2, k4]; exact h.rxValid⟩ ?_ same ?_ ?_ ?_ ?_ ?_ ?_ ?_ ?_ ?_
  · rcases hq with e | e | e <;> simp [e]
  · unfold State.atOwnStep
    rw [same.2.1, ho]
    rcases hq with e | e | e <;> rw [e]
  · intro fn' p' ho'
    rw [k5]
    exact h.latched (by rcases hseq with e | e | e | e <;> simp [e, Seq.pastBuild]) fn' p' ho'
  · rcases hq with e | e | e <;> simp [e]
  · intro _
    rw [k2, k4]
    exact h.frame hs
  · intro hd
    exact absurd (ho.symm.trans hd) (by simp)
  · intro hd
    exact absurd (ho.symm.trans hd) (by simp)
  · rcases hq with e | e | e <;> simp [e]
  · rw [k2]
    exact noError
  · rw [k6]
    exact h.within hidle

/-- `RX_FILT` of `EXEC` (R164). -/
theorem State.Inv.filter {s : State} (h : s.Inv) {fn : Byte} {p : List Byte} (ho : s.op = some (.execute fn p))
    (hs : s.seq = .rxFilt) (f : List Byte) : (filterFrame f s).Inv := by
  unfold filterFrame
  split
  · exact h.keepFrame ho ((State.holdsFrame_iff s).2 ⟨⟨fn, p, ho⟩, .inl hs⟩) (.inl rfl) ⟨rfl, rfl, rfl, rfl⟩
      ⟨rfl, rfl, rfl, rfl, rfl, rfl⟩ (by simp)
  · exact h.skip hs

/-- `CHK_CRC` of `EXEC` (R166). -/
theorem State.Inv.check {s : State} (h : s.Inv) {fn : Byte} {p : List Byte} (ho : s.op = some (.execute fn p))
    (hs : s.seq = .chkCrc) (f : List Byte) : (checkFrame f s).Inv := by
  have hsame := State.verify_same s f
  have hbase := h.base.verify f
  unfold checkFrame
  generalize s.verify f = v at *
  rcases v with ⟨t, _ | e⟩
  · simp only [State.SameButCheck] at hsame
    rw [hsame]
    exact h.keepFrame ho ((State.holdsFrame_iff s).2 ⟨⟨fn, p, ho⟩, .inr (.inl hs)⟩) (.inr (.inl rfl))
      ⟨rfl, rfl, rfl, rfl⟩ ⟨rfl, rfl, rfl, rfl, rfl, rfl⟩ (by simp)
  · exact hbase.raise _

/-- `CHK_ERR` of `EXEC` (R167). -/
theorem State.Inv.errorTest {s : State} (h : s.Inv) {fn : Byte} {p : List Byte} (ho : s.op = some (.execute fn p))
    (hs : s.seq = .chkErr) : (Machine.errorTest s.rxBytes s).Inv := by
  have hh := (State.holdsFrame_iff s).2 ⟨⟨fn, p, ho⟩, .inr (.inr (.inl hs))⟩
  have hf := (h.frame hh).1
  unfold Machine.errorTest
  split
  · exact State.Base.raise (by exact ⟨h.params, h.txbuf, h.rxbuf, h.txValid, h.rxValid⟩) _
  · rename_i h4
    rw [State.rxBytes_byteAt (by omega)] at h4
    exact h.keepFrame ho hh (.inr (.inr rfl)) ⟨rfl, rfl, rfl, rfl⟩ ⟨rfl, rfl, rfl, rfl, rfl, rfl⟩ (fun _ => h4)

/-- `CHK_FN` of `EXEC` (R168, R169). -/
theorem State.Inv.matchFunction {s : State} (h : s.Inv) (f : List Byte) : (Machine.matchFunction f s).Inv := by
  unfold Machine.matchFunction
  split
  · exact State.Base.finish (by exact ⟨h.params, h.txbuf, h.rxbuf, h.txValid, h.rxValid⟩) _
  · exact h.base.raise _

/-- `RESPFN` after a response of `MODEL` is a byte, whichever. -/
theorem State.setRespfn_shape (s : State) (r : List Byte) :
    ∃ v k, s.setRespfn r = { s with respfn := v, drawn := k } ∧ (4 < r.length → v = byteAt r 4) := by
  unfold State.setRespfn
  split
  · exact ⟨_, _, rfl, fun h => by omega⟩
  · exact ⟨_, _, rfl, fun _ => rfl⟩

/-- `RX_FILT` of `MODEL` (R182). -/
theorem State.Inv.filterModel {s : State} (h : s.Inv) (ho : s.op = some .model) (hs : s.seq = .rxFilt)
    (r : List Byte) : (Machine.filterModel r s).Inv := by
  unfold Machine.filterModel
  split
  · obtain ⟨v, k, e, -⟩ := State.setRespfn_shape { s with addrHit := true } r
    rw [e]
    split
    · refine h.next (by simp [hs]) ⟨h.params, h.txbuf, h.rxbuf, h.txValid, h.rxValid⟩ (by simp) ⟨rfl, rfl, rfl, rfl⟩
        (by simp [State.atOwnStep, ho]) (fun fn p ho' => absurd (ho.symm.trans ho') (by simp)) (by simp) (fun hh => ?_)
        (fun hd => absurd (ho.symm.trans hd) (by simp)) (fun _ _ => h.modelled ho (.inl hs)) (by simp) (by simp)
        (h.within (by simp [hs]))
      obtain ⟨⟨fn, p, ho'⟩, -⟩ := (State.holdsFrame_iff _).1 hh
      exact absurd (ho.symm.trans ho') (by simp)
    · exact State.Base.finish (by exact ⟨h.params, h.txbuf, h.rxbuf, h.txValid, h.rxValid⟩) _
  · exact h.skip hs

/-- `CHK_CRC` of `MODEL` (R182). -/
theorem State.Inv.checkModel {s : State} (h : s.Inv) (r : List Byte) : (Machine.checkModel r s).Inv := by
  have hbase := h.base.verify r
  unfold Machine.checkModel
  generalize s.verify r = v at *
  rcases v with ⟨t, _ | e⟩
  · exact State.Base.finish (by exact ⟨hbase.params, hbase.txbuf, hbase.rxbuf, hbase.txValid, hbase.rxValid⟩) _
  · exact hbase.raise _

/-- `CHK_CRC` of `DISCOVER` (R180). -/
theorem State.Inv.checkDiscover {s : State} (h : s.Inv) (r : List Byte) : (Machine.checkDiscover r s).Inv := by
  have hbase := h.base.verify r
  unfold Machine.checkDiscover
  generalize s.verify r = v at *
  rcases v with ⟨t, _ | e⟩
  · exact State.Base.finish (by exact ⟨hbase.params, hbase.txbuf, hbase.rxbuf, hbase.txValid, hbase.rxValid⟩) _
  · exact hbase.raise _

/-- Acceptance of a sequenced operation (R156, R180, R182). -/
theorem State.Inv.accept {s : State} (h : s.Inv) (o : SeqOp) (ha : o ≠ .discover → s.addrV = true)
    (hp : ∀ fn p, o = .execute fn p → p.length ≤ 245) : (s.accept o).Inv where
  params := h.params
  txbuf := h.txbuf
  rxbuf := h.rxbuf
  busy := by simp
  step := by cases o <;> simp [State.atOwnStep]
  bound := fun _ h2 => ha (by simpa using h2)
  payload := fun fn p ho => hp fn p (by simpa using ho)
  reqfn := by simp [Seq.pastBuild]
  txValid := h.txValid
  rxValid := h.rxValid
  header := by simp
  frame := fun hh => by simpa using State.holdsFrame_seq hh
  discovered := by simp
  modelled := by simp
  idx := by simp
  noError := by simp
  skips := by simp

/-- The parameters at reset are an instance of the hardware (R79). -/
theorem Config.params_ok : Config.params.ok = true := by
  have h1 := Config.discAddrOff.isLt
  have h2 := Config.modelRespExtra.isLt
  have a1 : Config.params.discReq.length = 11 := by simp [Config.params]
  have a2 : Config.params.discRespLen = min 255 (Config.discAddrOff.val + 4 + Config.discRespTail) := rfl
  have a3 : Config.params.discAddrOff = Config.discAddrOff.val := rfl
  have a4 : Config.params.modelPayload.length ≤ 245 := by simp [Config.params]
  have a5 : Config.params.modelRespLen = 4 + Config.modelRespExtra.val := rfl
  simp only [Params.ok, Bool.and_eq_true, decide_eq_true_eq, a1, a2, a3, a5]
  exact ⟨⟨⟨⟨⟨trivial, by omega⟩, by show _ ≤ 255; omega⟩, a4⟩, by omega⟩, by show _ ≤ 255; omega⟩

end Sys2Proof.Machine
end

