-- ==== Sys2Proof/Laws/PerInstr.lean ====
section
/-! SUPPORT. The family `TableBits`: an instruction's first word has the fixed bits that its row of spec/opcode_table.json
gives it, and every frame instruction is well formed exactly when its length byte counts its bytes. -/

namespace Sys2Proof.Laws.TableBits

open Sys2Proof.Machine

/-- The mask and the match of the instruction's row. -/
def row : Instr → Byte × Byte
  | .crcReset _ => (0xDF#8, 0x01#8)
  | .crcUpdb _ _ => (0xDF#8, 0x02#8)
  | .crcUpd _ _ => (0xDF#8, 0x03#8)
  | .crcSum _ _ => (0xDF#8, 0x04#8)
  | .crcGet _ => (0xDF#8, 0x05#8)
  | .crcAppend _ => (0xFF#8, 0x06#8)
  | .crcVerify _ => (0xFF#8, 0x07#8)
  | .tsPack _ => (0xFF#8, 0x08#8)
  | .tsUnpack _ => (0xFF#8, 0x09#8)
  | .arcUnpack _ => (0xFF#8, 0x0A#8)
  | .envEncode _ _ _ _ => (0xFF#8, 0x0B#8)
  | .chmEncode _ => (0xFF#8, 0x0C#8)
  | .chmDecode _ => (0xFF#8, 0x0D#8)
  | .prmWpack _ _ => (0xFF#8, 0x0E#8)
  | .errDecode _ => (0xFF#8, 0x0F#8)
  | .bind _ => (0xFF#8, 0x10#8)
  | .rebind => (0xFF#8, 0x11#8)
  | .midNext => (0xFF#8, 0x12#8)
  | .execute _ _ => (0xFF#8, 0x13#8)
  | .discover => (0xFF#8, 0x14#8)
  | .model => (0xFF#8, 0x15#8)
  | .fnError _ => (0xFF#8, 0x00#8)
  | .fnReadCurrent _ => (0xFF#8, 0x01#8)
  | .fnWriteCurrent _ => (0xFF#8, 0x03#8)
  | .fnReadTime _ => (0xFF#8, 0x04#8)
  | .fnWriteTime _ => (0xFF#8, 0x05#8)
  | .fnReadArchive _ => (0xFF#8, 0x06#8)
  | .fnReadPulseWeight _ => (0xFF#8, 0x07#8)
  | .fnWritePulseWeight _ => (0xFF#8, 0x08#8)
  | .fnLineTest _ => (0xFF#8, 0x09#8)
  | .fnReadSettings _ => (0xFF#8, 0x0A#8)
  | .fnWriteSettings _ => (0xFF#8, 0x0B#8)
  | .fnInputTest _ => (0xFF#8, 0x19#8)

/-- The word of an instruction that its row fixes: a command code, or the function byte of a frame (R84, R80). -/
def firstWord : Encoded → Byte
  | .cmd c => c.code
  | .frame s => byteAt s 4

/-- The fixed bits of the row are in the word, and a frame's bytes are as many as its length byte says (R71). -/
def Statement (i : Instr) : Prop :=
  firstWord (encode i) &&& (row i).1 = (row i).2 ∧
    ∀ s, encode i = .frame s → (i.wellFormed = true ↔ (byteAt s 5).toNat = s.length)

/-- A command is no frame, and its code has the fixed bits of its row. -/
theorem of_cmd {i : Instr} {op : BitVec 5} {k : Engine} {a : Operands} {mask fixed : Byte} (he : encode i = cmdOf op k a)
    (hr : row i = (mask, fixed)) (hc : codeOf op k &&& mask = fixed) : Statement i := by
  refine ⟨?_, fun s hs => ?_⟩
  · rw [he, hr]
    exact hc
  · rw [he] at hs
    cases hs

/-- A frame has its function code at offset 4 and its length at offset 5. -/
theorem of_frame {i : Instr} {fn : Byte} {f : FrameFields} (he : encode i = .frame (frameBytes fn f))
    (hw : i.wellFormed = f.wellFormed) (hr : row i = (0xFF#8, fn)) : Statement i := by
  refine ⟨?_, fun s hs => ?_⟩
  · rw [he, hr]
    simpa [firstWord] using BitVec.and_allOnes (x := fn)
  · rw [he] at hs
    cases hs
    simp [hw, FrameFields.wellFormed, Config.overhead]

theorem crcReset (k : Engine) : Statement (.crcReset k) := of_cmd rfl rfl (by cases k <;> decide)
theorem crcUpdb (k : Engine) (b : Byte) : Statement (.crcUpdb k b) := of_cmd rfl rfl (by cases k <;> decide)
theorem crcUpd (k : Engine) (s : List Byte) : Statement (.crcUpd k s) := of_cmd rfl rfl (by cases k <;> decide)
theorem crcSum (k : Engine) (s : List Byte) : Statement (.crcSum k s) := of_cmd rfl rfl (by cases k <;> decide)
theorem crcGet (k : Engine) : Statement (.crcGet k) := of_cmd rfl rfl (by cases k <;> decide)
theorem crcAppend (s : List Byte) : Statement (.crcAppend s) := of_cmd rfl rfl (by decide)
theorem crcVerify (f : List Byte) : Statement (.crcVerify f) := of_cmd rfl rfl (by decide)
theorem tsPack (t : Timestamp) : Statement (.tsPack t) := of_cmd rfl rfl (by decide)
theorem tsUnpack (s : List Byte) : Statement (.tsUnpack s) := of_cmd rfl rfl (by decide)
theorem arcUnpack (s : List Byte) : Statement (.arcUnpack s) := of_cmd rfl rfl (by decide)
theorem envEncode (addr : Word) (fn : Byte) (payload : List Byte) (id : Half) : Statement (.envEncode addr fn payload id) :=
    of_cmd rfl rfl (by decide)
theorem chmEncode (channels : List Nat) : Statement (.chmEncode channels) := of_cmd rfl rfl (by decide)
theorem chmDecode (m : Word) : Statement (.chmDecode m) := of_cmd rfl rfl (by decide)
theorem prmWpack (code : Half) (value : List Byte) : Statement (.prmWpack code value) := of_cmd rfl rfl (by decide)
theorem errDecode (c : Byte) : Statement (.errDecode c) := of_cmd rfl rfl (by decide)
theorem bind (addr : Word) : Statement (.bind addr) := of_cmd rfl rfl (by decide)
theorem rebind : Statement (.rebind) := of_cmd rfl rfl (by decide)
theorem midNext : Statement (.midNext) := of_cmd rfl rfl (by decide)
theorem execute (fn : Byte) (payload : Payload) : Statement (.execute fn payload) := of_cmd rfl rfl (by decide)
theorem discover : Statement (.discover) := of_cmd rfl rfl (by decide)
theorem model : Statement (.model) := of_cmd rfl rfl (by decide)
theorem fnError (f : FrameFields) : Statement (.fnError f) := of_frame rfl rfl rfl
theorem fnReadCurrent (f : FrameFields) : Statement (.fnReadCurrent f) := of_frame rfl rfl rfl
theorem fnWriteCurrent (f : FrameFields) : Statement (.fnWriteCurrent f) := of_frame rfl rfl rfl
theorem fnReadTime (f : FrameFields) : Statement (.fnReadTime f) := of_frame rfl rfl rfl
theorem fnWriteTime (f : FrameFields) : Statement (.fnWriteTime f) := of_frame rfl rfl rfl
theorem fnReadArchive (f : FrameFields) : Statement (.fnReadArchive f) := of_frame rfl rfl rfl
theorem fnReadPulseWeight (f : FrameFields) : Statement (.fnReadPulseWeight f) := of_frame rfl rfl rfl
theorem fnWritePulseWeight (f : FrameFields) : Statement (.fnWritePulseWeight f) := of_frame rfl rfl rfl
theorem fnLineTest (f : FrameFields) : Statement (.fnLineTest f) := of_frame rfl rfl rfl
theorem fnReadSettings (f : FrameFields) : Statement (.fnReadSettings f) := of_frame rfl rfl rfl
theorem fnWriteSettings (f : FrameFields) : Statement (.fnWriteSettings f) := of_frame rfl rfl rfl
theorem fnInputTest (f : FrameFields) : Statement (.fnInputTest f) := of_frame rfl rfl rfl

end Sys2Proof.Laws.TableBits
end

