-- ==== Sys2Proof/Tests/Slice0.lean ====
section
/-! SUPPORT. Tests. Expected values are those of spec/95_test_vectors.md (E<n>, V<n>, P<n>), and words are written out
from R70, R80, R84, R85; the witnesses at the end show that the hypotheses of the obligations can be met. -/

namespace Sys2Proof.Tests

-- One theorem after the other: tests elaborated side by side take more threads than the check's memory limit has room for.
set_option Elab.async false

open Sys2Proof.Machine

/-! ### Helpers -/

/-- Byte values as bytes. -/
def bytes (l : List Nat) : List Byte := l.map (BitVec.ofNat 8)

/-- A part of the next state, if there is one. -/
def look {α : Type} (o : Out) (f : State → α) : Option α :=
  match o with
  | .next t => some (f t)
  | .fault _ => none
  | .refused _ => none

/-- A transport answer that is in time. -/
def done : TxAnswer := ⟨.done, 0, 0, 0, 0⟩

/-- Parameters for tests. The discovery and model values are those of V44 and V45. -/
def params : Params where
  maxSkips := none
  timeout := 10
  errTable := Config.defaultErrTable
  discReq := bytes [0xF0, 0x0F, 0x0F, 0xF0, 0x00, 0x00, 0x00, 0x00, 0x00, 0x00, 0xA5]
  discRespLen := 10
  discAddrOff := 2
  modelFn := 0x0A#8
  modelPayload := [0x00#8, 0x00#8]
  modelRespLen := 8
  modelVerify := false

/-- After reset and `BIND 0x00123456`. -/
def bound : State :=
  { State.reset with params := params, addr := 0x00123456#32, addrV := true, done := true, answers := [.ok .none] }

/-- V10: the request of `EXEC 0x04, []`. -/
def request : List Byte := bytes [0x00, 0x12, 0x34, 0x56, 0x04, 0x0A, 0x00, 0x01, 0xDE, 0x80]

/-- The response to it (V12). -/
def response : List Byte :=
  bytes [0x00, 0x12, 0x34, 0x56, 0x04, 0x10, 0x16, 0x09, 0x05, 0x0D, 0x00, 0x00, 0x00, 0x01, 0x44, 0xB2]

/-- Timed bytes that need no waiting. -/
def now (s : List Byte) : Timed := s.map (fun b => (0, b))

/-- An `EXEC fn` in flight at the row `q`, its request of V10 in TXBUF. -/
def inFlight (fn : Byte) (q : Seq) : State :=
  { bound with
    busy := true, done := false, op := some (.execute fn []), seq := q, mid := 0x0001#16, reqfn := fn
    txbuf := Memory.setBytes [] 0 request, txlen := 10#8
    transport := { bound.transport with deadline := some 10, tx := [done, done] } }

/-- The same with the whole frame `f` in RXBUF. -/
def holding (fn : Byte) (q : Seq) (f : List Byte) : State :=
  { inFlight fn q with rxbuf := Memory.setBytes [] 0 f, rxlen := len8 f, idx := len8 f }

/-! ### Well-formedness: an ill-formed term for each check -/

theorem test_illformed_length_low : Instr.wellFormed (.fnReadTime ⟨0x00123456#32, 0x09#8, [], 1#16, 0#16⟩) = false := by
  decide
theorem test_illformed_length_high : Instr.wellFormed (.fnLineTest ⟨0x00123456#32, 0x0C#8, [1#8], 1#16, 0#16⟩) = false := by
  decide
theorem test_illformed_payload_too_long :
    Instr.wellFormed (.fnError ⟨0#32, 0x00#8, List.replicate 246 0#8, 0#16, 0#16⟩) = false := by decide +kernel
theorem test_wellformed_longest :
    Instr.wellFormed (.fnReadArchive ⟨0#32, 0xFF#8, List.replicate 245 0#8, 0#16, 0#16⟩) = true := by decide +kernel

/-! ### Decoding: command codes from R85, one for each host operation -/

theorem test_decode_crcReset : decodeTableWord 8 0b00100001 = some (.crcReset .rx) := by decide
theorem test_decode_crcUpdb : decodeCmd ⟨0b00000010#8, { Operands.zero with byte := 0x41#8 }⟩ =
    .ok (.crcUpdb .tx 0x41#8) := by decide
theorem test_decode_crcUpd : decodeCmd ⟨0b00100011#8, { Operands.zero with bytes := [0x02#8, 0x07#8] }⟩ =
    .ok (.crcUpd .rx [0x02#8, 0x07#8]) := by decide
theorem test_decode_crcSum : decodeCmd ⟨0b00000100#8, { Operands.zero with bytes := [0x02#8, 0x07#8] }⟩ =
    .ok (.crcSum .tx [0x02#8, 0x07#8]) := by decide
theorem test_decode_crcGet : decodeTableWord 8 0b00100101 = some (.crcGet .rx) := by decide
theorem test_decode_crcAppend : decodeCmd ⟨0b00000110#8, { Operands.zero with bytes := [0x02#8] }⟩ =
    .ok (.crcAppend [0x02#8]) := by decide
theorem test_decode_crcVerify : decodeCmd ⟨0b00000111#8, { Operands.zero with bytes := [0xFF#8, 0xFF#8] }⟩ =
    .ok (.crcVerify [0xFF#8, 0xFF#8]) := by decide
theorem test_decode_tsPack : decodeCmd ⟨0b00001000#8, { Operands.zero with time := ⟨2022, 9, 5, 13, 0, 0⟩ }⟩ =
    .ok (.tsPack ⟨2022, 9, 5, 13, 0, 0⟩) := by decide
theorem test_decode_tsUnpack : decodeCmd ⟨0b00001001#8, { Operands.zero with bytes := [0x16#8] }⟩ =
    .ok (.tsUnpack [0x16#8]) := by decide
theorem test_decode_arcUnpack : decodeCmd ⟨0b00001010#8, { Operands.zero with bytes := [0x01#8] }⟩ =
    .ok (.arcUnpack [0x01#8]) := by decide
theorem test_decode_envEncode :
    decodeCmd ⟨0b00001011#8, { Operands.zero with word := 0x00123456#32, byte := 0x09#8, bytes := [0x01#8], half := 2#16 }⟩ =
      .ok (.envEncode 0x00123456#32 0x09#8 [0x01#8] 2#16) := by decide
theorem test_decode_chmEncode : decodeCmd ⟨0b00001100#8, { Operands.zero with channels := [1, 3] }⟩ =
    .ok (.chmEncode [1, 3]) := by decide
theorem test_decode_chmDecode : decodeCmd ⟨0b00001101#8, { Operands.zero with word := 0x80000005#32 }⟩ =
    .ok (.chmDecode 0x80000005#32) := by decide
theorem test_decode_prmWpack :
    decodeCmd ⟨0b00001110#8, { Operands.zero with half := 0x0003#16, bytes := [0x64#8] }⟩ =
      .ok (.prmWpack 0x0003#16 [0x64#8]) := by decide
theorem test_decode_errDecode : decodeCmd ⟨0b00001111#8, { Operands.zero with byte := 0x02#8 }⟩ =
    .ok (.errDecode 0x02#8) := by decide
theorem test_decode_bind : decodeCmd ⟨0b00010000#8, { Operands.zero with word := 0x00123456#32 }⟩ =
    .ok (.bind 0x00123456#32) := by decide
theorem test_decode_rebind : decodeTableWord 8 0b00010001 = some .rebind := by decide
theorem test_decode_midNext : decodeTableWord 8 0b00010010 = some .midNext := by decide
theorem test_decode_execute : decodeCmd ⟨0b00010011#8, { Operands.zero with byte := 0x09#8, bytes := [0x01#8] }⟩ =
    .ok (.execute 0x09#8 (.built [0x01#8])) := by decide
theorem test_decode_discover : decodeTableWord 8 0b00010100 = some .discover := by decide
theorem test_decode_model : decodeTableWord 8 0b00010101 = some .model := by decide

/-- R86: operation number 0 and 0x16, a bit of [7:6], and `k` where there is none. -/
theorem test_decode_reserved :
    decodeCmd ⟨0b00000000#8, .zero⟩ = .error (.reservedOp 0x00#8) ∧
    decodeCmd ⟨0b00010110#8, .zero⟩ = .error (.reservedOp 0x16#8) ∧
    decodeCmd ⟨0b01000001#8, .zero⟩ = .error (.reservedBits 0x41#8) ∧
    decodeCmd ⟨0b00100110#8, .zero⟩ = .error (.noEngine 0x26#8) := by decide

/-! ### Decoding: the frames of V30 and V32, one for each function code -/

theorem test_decode_fnError :
    decodeFrame (bytes [0x00, 0x12, 0x34, 0x56, 0x00, 0x0B, 0x02, 0x00, 0x02, 0xD1, 0xF5]) =
      .ok (.fnError ⟨0x00123456#32, 0x0B#8, [0x02#8], 0x0002#16, 0xF5D1#16⟩) := by decide +kernel
theorem test_decode_fnReadCurrent :
    decodeFrame (bytes [0x00, 0x12, 0x34, 0x56, 0x01, 0x0E, 0x05, 0x00, 0x00, 0x00, 0x00, 0x02, 0x02, 0x6B]) =
      .ok (.fnReadCurrent ⟨0x00123456#32, 0x0E#8, [0x05#8, 0#8, 0#8, 0#8], 0x0002#16, 0x6B02#16⟩) := by decide +kernel
theorem test_decode_fnWriteCurrent :
    decodeFrame (bytes [0x00, 0x12, 0x34, 0x56, 0x03, 0x16, 0x01, 0x00, 0x00, 0x00, 0x00, 0x00, 0x00, 0x00, 0x00, 0x00,
        0x59, 0x40, 0x00, 0x03, 0x8D, 0x99]) =
      .ok (.fnWriteCurrent ⟨0x00123456#32, 0x16#8, [0x01#8, 0#8, 0#8, 0#8, 0#8, 0#8, 0#8, 0#8, 0#8, 0#8, 0x59#8, 0x40#8],
        0x0003#16, 0x998D#16⟩) := by decide +kernel
theorem test_decode_fnReadTime : decodeFrame request =
    .ok (.fnReadTime ⟨0x00123456#32, 0x0A#8, [], 0x0001#16, 0x80DE#16⟩) := by decide +kernel
theorem test_decode_fnWriteTime :
    decodeFrame (bytes [0x00, 0x12, 0x34, 0x56, 0x05, 0x10, 0x16, 0x09, 0x05, 0x0D, 0x00, 0x00, 0x00, 0x05, 0x14, 0xB4]) =
      .ok (.fnWriteTime ⟨0x00123456#32, 0x10#8, [0x16#8, 0x09#8, 0x05#8, 0x0D#8, 0#8, 0#8], 0x0005#16, 0xB414#16⟩) := by
  decide +kernel
theorem test_decode_fnReadArchive :
    decodeFrame (bytes [0x00, 0x12, 0x34, 0x56, 0x06, 0x0A, 0x00, 0x07, 0x5F, 0x3A]) =
      .ok (.fnReadArchive ⟨0x00123456#32, 0x0A#8, [], 0x0007#16, 0x3A5F#16⟩) := by decide +kernel
theorem test_decode_fnReadPulseWeight :
    decodeFrame (bytes [0x00, 0x12, 0x34, 0x56, 0x07, 0x0E, 0x01, 0x00, 0x00, 0x00, 0x00, 0x04, 0x03, 0xC7]) =
      .ok (.fnReadPulseWeight ⟨0x00123456#32, 0x0E#8, [0x01#8, 0#8, 0#8, 0#8], 0x0004#16, 0xC703#16⟩) := by
  decide +kernel
theorem test_decode_fnWritePulseWeight :
    decodeFrame (bytes [0x00, 0x12, 0x34, 0x56, 0x08, 0x12, 0x01, 0x00, 0x00, 0x00, 0x00, 0x00, 0x80, 0x3F, 0x00, 0x08,
        0x27, 0xF7]) =
      .ok (.fnWritePulseWeight ⟨0x00123456#32, 0x12#8, [0x01#8, 0#8, 0#8, 0#8, 0#8, 0#8, 0x80#8, 0x3F#8], 0x0008#16,
        0xF727#16⟩) := by decide +kernel
theorem test_decode_fnLineTest :
    decodeFrame (bytes [0x00, 0x12, 0x34, 0x56, 0x09, 0x0B, 0x01, 0x00, 0x01, 0xBD, 0xF5]) =
      .ok (.fnLineTest ⟨0x00123456#32, 0x0B#8, [0x01#8], 0x0001#16, 0xF5BD#16⟩) := by decide +kernel
theorem test_decode_fnReadSettings :
    decodeFrame (bytes [0x00, 0x12, 0x34, 0x56, 0x0A, 0x0C, 0x05, 0x00, 0x00, 0x09, 0x40, 0x24]) =
      .ok (.fnReadSettings ⟨0x00123456#32, 0x0C#8, [0x05#8, 0#8], 0x0009#16, 0x2440#16⟩) := by decide +kernel
theorem test_decode_fnWriteSettings :
    decodeFrame (bytes [0x00, 0x12, 0x34, 0x56, 0x0B, 0x14, 0x03, 0x00, 0x64, 0x00, 0x00, 0x00, 0x00, 0x00, 0x00, 0x00,
        0x00, 0x06, 0xE1, 0x1A]) =
      .ok (.fnWriteSettings ⟨0x00123456#32, 0x14#8, [0x03#8, 0#8, 0x64#8, 0#8, 0#8, 0#8, 0#8, 0#8, 0#8, 0#8], 0x0006#16,
        0x1AE1#16⟩) := by decide +kernel
theorem test_decode_fnInputTest :
    decodeFrame (bytes [0x00, 0x12, 0x34, 0x56, 0x19, 0x0A, 0x00, 0x0A, 0x99, 0x2B]) =
      .ok (.fnInputTest ⟨0x00123456#32, 0x0A#8, [], 0x000A#16, 0x2B99#16⟩) := by decide +kernel

/-- V41, V32: the code 0x02 has no row; a frame of 9 bytes and one whose length byte is wrong are none. -/
theorem test_decode_noFrame :
    decodeFrame (bytes [0x00, 0x12, 0x34, 0x56, 0x02, 0x0A, 0x00, 0x01, 0xDE, 0x08]) = .error (.unassigned 0x02#8) ∧
    decodeFrame (bytes [0x00, 0x12, 0x34, 0x56, 0x04, 0x09, 0x00, 0x01, 0xDE]) = .error (.shortFrame 9) ∧
    decodeFrame (bytes [0x00, 0x12, 0x34, 0x56, 0x04, 0x0B, 0x00, 0x01, 0xDE, 0x80]) = .error (.lengthByte 0x0B#8 10) := by
  decide +kernel

/-- The words of the table, numbered from bit 0 of the first byte, for a whole frame (log 2). -/
theorem test_decode_tableFrame : decodeTableWord 80 0x80DE01000A0456341200 =
    some (.fnReadTime ⟨0x00123456#32, 0x0A#8, [], 0x0001#16, 0x80DE#16⟩) := by decide +kernel

/-! ### One step of each host operation -/

theorem test_crcReset : look (exec (.crcReset .rx) { bound with crcTx := 0x1241#16, crcRx := 0xD971#16 })
    (fun t => (t.crcTx, t.crcRx, t.answers)) = some (0x1241#16, 0xFFFF#16, [.ok .none, .ok .none]) := by decide
/-- V1. -/
theorem test_crcUpdb_first : look (exec (.crcUpdb .tx 0x02#8) bound) (fun t => (t.crcTx, t.crcRx)) =
    some (0x813E#16, 0xFFFF#16) := by decide +kernel
/-- V8. -/
theorem test_crcUpdb_shifts : look (exec (.crcUpdb .rx 0x00#8) { bound with crcRx := 0x8000#16 })
    (fun t => (t.crcTx, t.crcRx)) = some (0xFFFF#16, 0x0080#16) := by decide +kernel
/-- V15. -/
theorem test_crcUpd : look (exec (.crcUpd .tx (bytes [0x40, 0x00, 0x0A])) { bound with crcTx := 0xC022#16 })
    State.crcTx = some 0xD971#16 := by decide +kernel
theorem test_crcUpd_empty : look (exec (.crcUpd .rx []) { bound with crcRx := 0xC022#16 }) State.crcRx =
    some 0xC022#16 := by decide
/-- E2. -/
theorem test_crcSum_E2 : look (exec (.crcSum .tx (bytes [0x01, 0x04, 0x00, 0x40, 0x00, 0x0A])) bound)
    (fun t => (t.crcTx, t.answers)) = some (0xD971#16, [.ok (.half 0xD971#16), .ok .none]) := by decide +kernel
/-- E3. -/
theorem test_crcSum_E3 : look (exec (.crcSum .rx (bytes [0x01, 0x04, 0x14, 0x3A, 0x11, 0xE6, 0xEE, 0x3B, 0x16, 0xC4, 0x4D,
      0x39, 0xE2, 0x42, 0x57, 0x38, 0x17, 0x30, 0xBA, 0x3D, 0x86, 0x24, 0x37])) bound)
    (fun t => (t.crcTx, t.crcRx)) = some (0xFFFF#16, 0xAED0#16) := by decide +kernel
theorem test_crcGet : look (exec (.crcGet .rx) { bound with crcRx := 0xD971#16 })
    (fun t => (t.crcRx, t.answers)) = some (0xD971#16, [.ok (.half 0xD971#16), .ok .none]) := by decide
/-- V10. -/
theorem test_crcAppend : look (exec (.crcAppend (bytes [0x00, 0x12, 0x34, 0x56, 0x04, 0x0A, 0x00, 0x01])) bound)
    (fun t => (t.crcTx, t.answers)) = some (0x80DE#16, [.ok (.bytes request), .ok .none]) := by decide +kernel
/-- V11. -/
theorem test_crcVerify_good :
    look (exec (.crcVerify (bytes [0x00, 0x12, 0x34, 0x56, 0x00, 0x0B, 0x02, 0x00, 0x02, 0xD1, 0xF5])) bound)
      (fun t => (t.calccrc, t.recvcrc, t.crcOk, t.crcRx, t.kind)) = some (0xF5D1#16, 0xF5D1#16, true, 0xF5D1#16, .ok) := by
  decide +kernel
/-- V12 (b). -/
theorem test_crcVerify_bad :
    look (exec (.crcVerify (bytes [0x00, 0x12, 0x34, 0x56, 0x04, 0x10, 0x17, 0x09, 0x05, 0x0D, 0x00, 0x00, 0x00, 0x01, 0x44,
        0xB2])) { bound with crcOk := true }) (fun t => (t.crcOk, t.kind, t.answers)) =
      some (false, .checksum, [.err (.checksum 0x7E85#16 0xB244#16), .ok .none]) := by decide +kernel
/-- V16. -/
theorem test_tsPack : look (exec (.tsPack ⟨2022, 9, 5, 13, 0, 0⟩) bound) State.answers =
    some [.ok (.bytes (bytes [0x16, 0x09, 0x05, 0x0D, 0x00, 0x00])), .ok .none] := by decide
/-- V18. -/
theorem test_tsPack_year : look (exec (.tsPack ⟨2256, 1, 1, 0, 0, 0⟩) bound) (fun t => (t.kind, t.answers)) =
    some (.argInvalid, [.err (.argInvalid .year), .ok .none]) := by decide
/-- V19. -/
theorem test_tsUnpack_short : look (exec (.tsUnpack (bytes [0x16, 0x09, 0x05, 0x0D, 0x00])) bound) State.answers =
    some [.err (.tooShort 5), .ok .none] := by decide
/-- V20. -/
theorem test_tsUnpack : look (exec (.tsUnpack (bytes [0xFF, 0x0D, 0x20, 0x18, 0x3C, 0x3D])) bound) State.answers =
    some [.ok (.time ⟨2255, 13, 32, 24, 60, 61⟩), .ok .none] := by decide
/-- V23. -/
theorem test_arcUnpack : look (exec (.arcUnpack (bytes [0x01, 0x00, 0x00, 0x00, 0x16, 0x09, 0x05, 0x0D, 0x00, 0x00, 0x00,
      0x00, 0x80, 0x3F])) bound) State.answers =
    some [.ok (.archive 0x00000001#32 ⟨2022, 9, 5, 13, 0, 0⟩ [0x3F800000#32]), .ok .none] := by decide +kernel
/-- V23. -/
theorem test_arcUnpack_partial : look (exec (.arcUnpack (bytes [0x01, 0x00, 0x00, 0x00, 0x16, 0x09, 0x05, 0x0D, 0x00, 0x00,
      0x00, 0x00, 0x80])) bound) State.answers = some [.err (.tooShort 13), .ok .none] := by decide +kernel
/-- V26. -/
theorem test_envEncode : look (exec (.envEncode 0x00123456#32 0x09#8 [0x01#8] 0x0000#16) bound) State.answers =
    some [.ok (.bytes (bytes [0x00, 0x12, 0x34, 0x56, 0x09, 0x0B, 0x01, 0x00, 0x00])), .ok .none] := by decide
/-- V26. -/
theorem test_envEncode_long : look (exec (.envEncode 0x00123456#32 0x06#8 (List.replicate 246 0#8) 0x0001#16) bound)
    State.answers = some [.err (.argInvalid .payloadLength), .ok .none] := by decide +kernel
/-- V27. -/
theorem test_chmEncode : look (exec (.chmEncode [32, 1, 3, 1]) bound) State.answers =
    some [.ok (.word 0x80000005#32), .ok .none] := by decide +kernel
/-- V27. -/
theorem test_chmEncode_zero : look (exec (.chmEncode [1, 0]) bound) State.answers =
    some [.err (.argInvalid .channelZero), .ok .none] := by decide
/-- V28. -/
theorem test_chmDecode : look (exec (.chmDecode 0x80000005#32) bound) State.answers =
    some [.ok (.channels [1, 3, 32]), .ok .none] := by decide +kernel
/-- V29. -/
theorem test_prmWpack : look (exec (.prmWpack 0x0109#16 (bytes [0x64])) bound) State.answers =
    some [.ok (.bytes (bytes [0x09, 0x01, 0x64, 0x00, 0x00, 0x00, 0x00, 0x00, 0x00, 0x00])), .ok .none] := by decide +kernel
/-- V29. -/
theorem test_prmWpack_long : look (exec (.prmWpack 0x0003#16 (List.replicate 9 0#8)) bound) State.answers =
    some [.err (.argInvalid .valueLength), .ok .none] := by decide
/-- V30. -/
theorem test_errDecode : look (exec (.errDecode 0x08#8) bound) State.answers =
    some [.ok (.name .tooLongPeriod), .ok .none] := by decide
/-- V30. -/
theorem test_errDecode_other : look (exec (.errDecode 0x09#8) bound) State.answers =
    some [.ok (.name .unknown), .ok .none] := by decide
/-- V34. -/
theorem test_bind : look (exec (.bind 0xFFFFFFFF#32) { bound with mid := 0x0007#16 })
    (fun t => (t.addr, t.addrV, t.mid)) = some (0xFFFFFFFF#32, true, 0x0000#16) := by decide
/-- V34; R60: what the old transport still had to deliver is gone. -/
theorem test_rebind : look (exec .rebind
      { bound with mid := 0x0007#16, transport := { bound.transport with rx := [.silence], outBuf := [0x01#8] } })
    (fun t => (t.mid, t.addr, t.addrV, t.transport.rx, t.transport.outBuf)) =
      some (0x0007#16, 0x00123456#32, true, [], []) := by decide
/-- V33. -/
theorem test_midNext_wrap : look (exec .midNext { bound with mid := 0xFFFF#16 }) (fun t => (t.mid, t.answers)) =
    some (0x0001#16, [.ok (.half 0x0001#16), .ok .none]) := by decide
/-- V33. -/
theorem test_midNext : look (exec .midNext { bound with mid := 0x7FFF#16 }) State.mid = some 0x8000#16 := by decide
/-- P5: a payload that cannot be built is refused and takes no id. -/
theorem test_execute_unbuildable : look (exec (.execute 0x01#8 (.unbuildable .channelZero)) { bound with mid := 0xFFFF#16 })
    (fun t => (t.mid, t.seq, t.kind)) = some (0xFFFF#16, .idle, .argInvalid) := by decide
/-- R156: without an address the payload is not looked at. -/
theorem test_execute_notBound : look (exec (.execute 0x01#8 (.unbuildable .channelZero)) { bound with addrV := false })
    (fun t => (t.busy, t.done, t.kind)) = some (false, true, .notBound) := by decide
/-- V44: `DISCOVER` needs no address. -/
theorem test_discover : look (exec .discover { bound with addrV := false }) (fun t => (t.busy, t.done, t.seq, t.op)) =
    some (true, false, .build, some .discover) := by decide
theorem test_model_notBound : look (exec .model { bound with addrV := false }) (fun t => (t.busy, t.kind)) =
    some (false, .notBound) := by decide

/-! ### One step of each frame instruction -/

/-- V41: the error frame from the bound address. -/
theorem test_fnError : look (exec (.fnError (frameFields (bytes [0x00, 0x12, 0x34, 0x56, 0x00, 0x0B, 0x02, 0x00, 0x01, 0x91,
      0xF4]))) (inFlight 0x01#8 .chkErr)) (fun t => (t.isErr, t.errcode, t.busy, t.answers)) =
    some (true, 0x02#8, false, [.err (.deviceError 0x02#8 .invalidBitmask), .ok .none]) := by decide +kernel
/-- V41: with its code byte corrupted it is a checksum error. -/
theorem test_fnError_checksum : look (exec (.fnError (frameFields (bytes [0x00, 0x12, 0x34, 0x56, 0x00, 0x0B, 0x03, 0x00,
      0x01, 0x91, 0xF4]))) (inFlight 0x01#8 .chkCrc)) (fun t => (t.crcOk, t.isErr, t.answers)) =
    some (false, false, [.err (.checksum 0x34C0#16 0xF491#16), .ok .none]) := by decide +kernel
/-- V32: the frames of the assigned codes have right checksums. -/
theorem test_fnReadCurrent : look (exec (.fnReadCurrent (frameFields (bytes [0x00, 0x12, 0x34, 0x56, 0x01, 0x0E, 0x05, 0x00,
      0x00, 0x00, 0x00, 0x02, 0x02, 0x6B]))) (inFlight 0x01#8 .chkCrc)) (fun t => (t.crcOk, t.crcRx, t.seq)) =
    some (true, 0x6B02#16, .chkErr) := by decide +kernel
/-- V36: a foreign frame is skipped. -/
theorem test_fnReadCurrent_foreign : look (exec (.fnReadCurrent (frameFields (bytes [0x00, 0x99, 0x99, 0x99, 0x01, 0x12,
      0x00, 0x00, 0x00, 0x00, 0x00, 0x00, 0x59, 0x40, 0x00, 0x07, 0x52, 0xAA]))) (inFlight 0x04#8 .rxFilt))
    (fun t => (t.skips, t.addrHit, t.seq, t.respfn)) = some (1, false, .rxPrep, 0x00#8) := by decide +kernel
theorem test_fnWriteCurrent : look (exec (.fnWriteCurrent (frameFields (bytes [0x00, 0x12, 0x34, 0x56, 0x03, 0x16, 0x01,
      0x00, 0x00, 0x00, 0x00, 0x00, 0x00, 0x00, 0x00, 0x00, 0x59, 0x40, 0x00, 0x03, 0x8D, 0x99])))
      (inFlight 0x03#8 .chkCrc)) (fun t => (t.crcOk, t.crcRx, t.seq)) = some (true, 0x998D#16, .chkErr) := by decide +kernel
/-- V36: the answer of the bound device passes the filter. -/
theorem test_fnReadTime : look (exec (.fnReadTime (frameFields response)) (inFlight 0x04#8 .rxFilt))
    (fun t => (t.addrHit, t.respfn, t.seq)) = some (true, 0x04#8, .chkCrc) := by decide +kernel
/-- V38: the second foreign frame passes the bound 1; one bit of the address differs. -/
theorem test_fnReadTime_limit : look (exec (.fnReadTime (frameFields (bytes [0x00, 0x12, 0x34, 0x57, 0x04, 0x10, 0x16, 0x09,
      0x05, 0x0D, 0x00, 0x00, 0x00, 0x01, 0x40, 0x4E])))
      { inFlight 0x04#8 .rxFilt with skips := 1, params := { params with maxSkips := some 1 } })
    (fun t => (t.skips, t.kind, t.answers)) = some (2, .skipLimit, [.err (.skipLimit 2), .ok .none]) := by decide +kernel
/-- V41: another function code than the request's. -/
theorem test_fnWriteTime : look (exec (.fnWriteTime (frameFields (bytes [0x00, 0x12, 0x34, 0x56, 0x05, 0x10, 0x16, 0x09,
      0x05, 0x0D, 0x00, 0x00, 0x00, 0x01, 0x15, 0x77]))) (inFlight 0x04#8 .chkFn)) (fun t => (t.fnOk, t.answers)) =
    some (false, [.err (.protoMismatch 0x04#8 0x05#8), .ok .none]) := by decide +kernel
/-- P6: the body is the payload and the message id. -/
theorem test_fnReadArchive : look (exec (.fnReadArchive (frameFields (bytes [0x00, 0x12, 0x34, 0x56, 0x06, 0x1C, 0x01, 0x00,
      0x00, 0x00, 0x16, 0x09, 0x05, 0x0D, 0x00, 0x00, 0x00, 0x00, 0x00, 0x00, 0x00, 0x00, 0x80, 0x3F, 0x00, 0x07, 0xE5,
      0xD7]))) (inFlight 0x06#8 .chkFn)) (fun t => (t.bodylen, t.paylen, t.respmid)) =
    some (20#8, 18#8, 0x0007#16) := by decide +kernel
theorem test_fnReadPulseWeight : look (exec (.fnReadPulseWeight (frameFields (bytes [0x00, 0x12, 0x34, 0x56, 0x07, 0x0E,
      0x01, 0x00, 0x00, 0x00, 0x00, 0x04, 0x03, 0xC7]))) (inFlight 0x07#8 .chkErr)) (fun t => (t.isErr, t.seq)) =
    some (false, .chkFn) := by decide +kernel
theorem test_fnWritePulseWeight : look (exec (.fnWritePulseWeight (frameFields (bytes [0x00, 0x12, 0x34, 0x56, 0x08, 0x12,
      0x01, 0x00, 0x00, 0x00, 0x00, 0x00, 0x80, 0x3F, 0x00, 0x08, 0x27, 0xF7]))) (inFlight 0x08#8 .chkCrc))
    (fun t => (t.crcOk, t.recvcrc)) = some (true, 0xF727#16) := by decide +kernel
/-- V35: the smallest answer; its id differs from the request's and is not compared. -/
theorem test_fnLineTest : look (exec (.fnLineTest (frameFields (bytes [0x00, 0x12, 0x34, 0x56, 0x09, 0x0B, 0x01, 0x00, 0x03,
      0x3C, 0x34]))) (inFlight 0x09#8 .chkFn)) (fun t => (t.bodylen, t.paylen, t.respmid, t.fnOk, t.answers)) =
    some (3#8, 1#8, 0x0003#16, true, [.ok (.bytes (bytes [0x01, 0x00, 0x03])), .ok .none]) := by decide +kernel
theorem test_fnReadSettings : look (exec (.fnReadSettings (frameFields (bytes [0x00, 0x12, 0x34, 0x56, 0x0A, 0x0C, 0x05,
      0x00, 0x00, 0x09, 0x40, 0x24]))) (inFlight 0x0A#8 .chkCrc)) (fun t => (t.crcOk, t.recvcrc)) =
    some (true, 0x2440#16) := by decide +kernel
theorem test_fnWriteSettings : look (exec (.fnWriteSettings (frameFields (bytes [0x00, 0x12, 0x34, 0x56, 0x0B, 0x14, 0x03,
      0x00, 0x64, 0x00, 0x00, 0x00, 0x00, 0x00, 0x00, 0x00, 0x00, 0x06, 0xE1, 0x1A]))) (inFlight 0x0B#8 .chkFn))
    (fun t => (t.fnOk, t.respmid)) = some (true, 0x0006#16) := by decide +kernel
/-- R54: with no frame in hand a frame waits on the stream. -/
theorem test_fnInputTest_waits : look (exec (.fnInputTest (frameFields (bytes [0x00, 0x12, 0x34, 0x56, 0x19, 0x0A, 0x00,
      0x0A, 0x99, 0x2B]))) bound) (fun t => (t.seq, t.transport.rx.length, t.transport.rx.head?)) =
    some (.idle, 10, some (.arrive 0 0x00#8)) := by decide +kernel
theorem test_fnInputTest : look (exec (.fnInputTest (frameFields (bytes [0x00, 0x12, 0x34, 0x56, 0x19, 0x0A, 0x00, 0x0A,
      0x99, 0x2B]))) (inFlight 0x19#8 .chkCrc)) (fun t => (t.crcOk, t.recvcrc)) = some (true, 0x2B99#16) := by decide +kernel

/-! ### One step of the unit -/

/-- V32, V10: `BUILD` puts the request in TXBUF. -/
theorem test_step_build : look (step { inFlight 0x04#8 .build with mid := 0x0000#16, txbuf := [], txlen := 0#8 })
    (fun t => (t.txBytes, t.mid, t.crcTx, t.seq)) = some (request, 0x0001#16, 0x80DE#16, .txPrep) := by decide +kernel
/-- V39: `TxWrite` answers `IoFail`. -/
theorem test_step_txWrite_fails : look (step { inFlight 0x04#8 .txWrite with
      transport := { (inFlight 0x04#8 .txWrite).transport with tx := [⟨.failed 7, 0, 0, 0, 0⟩] } })
    (fun t => (t.kind, t.answers.head?, t.txlen)) = some (.ioFail, some (.err (.ioFail .txWrite 7)), 10#8) := by
  decide +kernel
/-- V40: a length byte of 0 does not wrap around to 250. -/
theorem test_step_rxHdr_zero : look (step { inFlight 0x04#8 .rxHdr with transport :=
      { (inFlight 0x04#8 .rxHdr).transport with rx := arrivals (now (bytes [0x00, 0x12, 0x34, 0x56, 0x04, 0x00])) } })
    (fun t => (t.kind, t.rxlen, t.answers.head?)) = some (.invalidFrame, 6#8, some (.err (.invalidFrame 0x00#8))) := by
  decide +kernel
/-- V39: four bytes and then silence; the bytes are lost. -/
theorem test_step_rxHdr_silence : look (step { inFlight 0x04#8 .rxHdr with transport :=
      { (inFlight 0x04#8 .rxHdr).transport with rx := arrivals (now (bytes [0x00, 0x12, 0x34, 0x56])) ++ [.silence] } })
    (fun t => (t.kind, t.rxlen, t.transport.rx, t.answers.head?)) =
      some (.timeout, 0#8, [], some (.err (.timeout .rxHdr))) := by decide +kernel
/-- V44: the discovery response binds the address. -/
theorem test_step_discover : look (step { holding 0x04#8 .chkCrc (bytes [0xAA, 0x55, 0x00, 0x12, 0x34, 0x56, 0x01, 0x02,
      0x19, 0x7B]) with op := some .discover, addr := 0#32, addrV := false }) (fun t => (t.addrV, t.mid, t.answers)) =
    some (true, 0x0000#16, [.ok (.word 0x00123456#32), .ok .none]) := by decide +kernel
/-- V45: a model response from another address is skipped. -/
theorem test_step_model : look (step { holding 0x0A#8 .rxFilt (bytes [0x00, 0x99, 0x99, 0x99, 0x0A, 0x39, 0x39, 0x39]) with
      op := some .model }) (fun t => (t.skips, t.seq)) = some (1, .rxPrep) := by decide +kernel
/-- R86: a reserved code while idle. -/
theorem test_step_illegal : look (step { bound with inputs := [⟨0, false, .cmd ⟨0x16#8, .zero⟩⟩] })
    (fun t => (t.kind, t.busy, t.done, t.answers.head?)) =
      some (.illegalCmd, false, true, some (.err (.illegalCmd 0x16#8))) := by decide +kernel
/-- R260, U9: reset inside a blocked read of a header, two bytes of which are consumed and lost and the third still to come. -/
theorem test_step_reset : look (step { inFlight 0x04#8 .rxHdr with
      transport := { State.reset.transport with rx := arrivals [(1, 0x00#8), (1, 0x12#8), (5, 0x34#8)] }
      inputs := [⟨0, false, .reset (some ⟨2, 0, 0, 2⟩)⟩] })
    (fun t => (t.busy, t.addrV, t.seq, t.transport.rx)) =
      some (false, false, .idle, arrivals [(3, 0x34#8)]) := by decide +kernel
/-- R260, U6: reset inside a blocked write, of which four bytes are buffered and one is on the line. -/
theorem test_step_resetInWrite : look (step { inFlight 0x04#8 .txWrite with
      inputs := [⟨0, false, .reset (some ⟨0, 4, 1, 0⟩)⟩] })
    (fun t => (t.seq, t.txlen, t.transport.line, t.transport.outBuf)) =
      some (.idle, 0#8, bytes [0x00], bytes [0x12, 0x34, 0x56]) := by decide +kernel
/-- The word of a table row runs as the first instruction after reset (log 2). -/
theorem test_step_fetchWord : look (step (State.reset.withFetchWord 8 0x12)) (fun t => (t.mid, t.answers)) =
    some (0x0001#16, [.ok (.half 0x0001#16)]) := by decide +kernel
/-- The function byte of the input test row, which is no command code, runs as a frame in hand (log 2). -/
theorem test_step_fetchFrame : look (step (State.reset.withFetchWord 8 0x19)) (fun t => (t.addrHit, t.respfn, t.seq)) =
    some (true, 0x19#8, .chkCrc) := by decide +kernel

/-! ### The invariant of concrete states -/

/-- The clauses of the invariant as one computation. -/
def invCheck (s : State) : Bool :=
  s.params.ok && decide s.txbuf.wf && decide s.rxbuf.wf && decide (s.busy = true ↔ s.seq ≠ .idle) && s.atOwnStep &&
  (match s.op with
    | none => true
    | some .discover => decide (s.seq = .chkCrc → s.rxlen.toNat = s.params.discRespLen)
    | some .model => s.addrV && decide (s.seq = .rxFilt ∨ s.seq = .chkCrc → s.rxlen.toNat = s.params.modelRespLen)
    | some (.execute fn p) =>
      s.addrV && decide (p.length ≤ Config.maxPayload) && decide (s.seq.pastBuild = true → s.reqfn = fn)) &&
  decide (∀ i, i < s.txlen.toNat → (s.txbuf.get? i).isSome = true) &&
  decide (∀ i, i < s.rxlen.toNat → (s.rxbuf.get? i).isSome = true) &&
  decide (s.seq = .rxBody → s.rxlen = 6#8 ∧ 5 ≤ s.rem.toNat ∧ s.rem.toNat ≤ 249 ∧
    (s.rxbuf.read .rx 5).toNat = s.rem.toNat + 6) &&
  decide (s.holdsFrame = true → 11 ≤ s.rxlen.toNat ∧ s.rxbuf.read .rx 5 = s.rxlen) &&
  decide (s.seq = .rxHdr ∨ s.seq = .rxBody → s.idx = s.rxlen) &&
  decide (s.seq = .chkFn → s.rxbuf.read .rx 4 ≠ Config.fnError) &&
  (match s.params.maxSkips with
    | none => true
    | some m => decide (s.busy = true → s.skips ≤ m))

theorem inv_of_check {s : State} (h : invCheck s = true) : s.Inv := by
  simp only [invCheck, Bool.and_eq_true, decide_eq_true_eq] at h
  obtain ⟨⟨⟨⟨⟨⟨⟨⟨⟨⟨⟨⟨h1, h2⟩, h3⟩, h4⟩, h5⟩, h6⟩, h7⟩, h8⟩, h9⟩, h10⟩, h11⟩, h12⟩, h13⟩ := h
  refine ⟨h1, h2, h3, h4, h5, fun ho hd => ?_, fun fn p ho => ?_, fun fn p ho hs => ?_, h7, h8, h9, h10, fun ho => ?_,
    fun ho => ?_, h11, h12, fun m hm => ?_⟩
  · rcases hop : s.op with _ | (⟨fn, p⟩ | _ | _) <;> simp_all
  · rw [ho] at h6
    simp_all
  · rw [ho] at h6
    simp_all
  · rw [ho] at h6
    exact of_decide_eq_true h6
  · rw [ho] at h6
    exact of_decide_eq_true ((Bool.and_eq_true _ _).mp h6).2
  · rw [hm] at h13
    exact of_decide_eq_true h13

/-! ### Witnesses: concrete states and operands that meet the hypotheses of each obligation, clause by clause -/

/-- The foreign frames of V36 and its answer, an error frame (V41), and an answer with another function code (V41). -/
def foreignA : List Byte := bytes [0x00, 0x99, 0x99, 0x99, 0x01, 0x12, 0x00, 0x00, 0x00, 0x00, 0x00, 0x00, 0x59, 0x40, 0x00,
  0x07, 0x52, 0xAA]
def foreignB : List Byte := bytes [0x00, 0x12, 0x34, 0x57, 0x04, 0x10, 0x16, 0x09, 0x05, 0x0D, 0x00, 0x00, 0x00, 0x01, 0x40,
  0x4E]
def errorFrame : List Byte := bytes [0x00, 0x12, 0x34, 0x56, 0x00, 0x0B, 0x02, 0x00, 0x01, 0x91, 0xF4]
def otherCode : List Byte := bytes [0x00, 0x12, 0x34, 0x56, 0x05, 0x10, 0x16, 0x09, 0x05, 0x0D, 0x00, 0x00, 0x00, 0x01, 0x15,
  0x77]
def badChecksum : List Byte := bytes [0x00, 0x12, 0x34, 0x56, 0x04, 0x10, 0x16, 0x09, 0x05, 0x0D, 0x00, 0x00, 0x00, 0x01, 0x44,
  0x4D]
/-- V41: a frame whose code has no row. -/
def unassigned : List Byte := bytes [0x00, 0x12, 0x34, 0x56, 0x02, 0x0B, 0xAA, 0x00, 0x01, 0x69, 0xD4]

/-- An accepted `EXEC 0x04, []`, before its request is built. -/
def accepted : State := { inFlight 0x04#8 .build with mid := 0x0000#16, txbuf := [], txlen := 0#8 }
/-- The header of the response is in RXBUF. -/
def atBody : State := { inFlight 0x04#8 .rxBody with
  rxbuf := Memory.setBytes [] 0 (response.take 6), rxlen := 6#8, idx := 6#8, rem := 10#8 }
/-- A bound of one skip. -/
def limited : Params := { params with maxSkips := some 1 }

/-- One state for each row of R175, and for each way it can go. -/
def rows : List State :=
  [accepted, inFlight 0x04#8 .txPrep, inFlight 0x04#8 .txWrite, inFlight 0x04#8 .txFlush, inFlight 0x04#8 .rxPrep,
    inFlight 0x04#8 .rxHdr, atBody, holding 0x04#8 .rxFilt response, holding 0x04#8 .rxFilt foreignA,
    { holding 0x04#8 .rxFilt foreignB with params := limited, skips := 1 }] ++
  [holding 0x04#8 .chkCrc response, holding 0x04#8 .chkCrc badChecksum, holding 0x04#8 .chkErr response,
    holding 0x04#8 .chkErr errorFrame, holding 0x04#8 .chkFn response, holding 0x04#8 .chkFn otherCode]

theorem rows_check : ∀ s ∈ rows, invCheck s = true ∧ s.landing = none ∧ s.op = some (.execute 0x04#8 []) := by
  decide +kernel

theorem bound_inv : bound.Inv := inv_of_check (by decide +kernel)
theorem accepted_inv : accepted.Inv := inv_of_check (by decide +kernel)

/-- A step with no answer of the line in it. -/
theorem accepted_steps : ∃ t, step accepted = .next t := by
  obtain ⟨t, h, -⟩ := step_row (s := accepted) rfl (by decide +kernel) rfl
    (fun fn p h => by injection h with h; injection h with _ h; subst h; decide) (fun h => by cases h)
  exact ⟨t, h⟩

theorem bound_steps : ∃ t, step bound = .next t := ⟨_, rfl⟩

theorem witness_CrcUpdateFoldsAndSplits : bound.busy = false := rfl

theorem witness_CrcVerifyComparesTrailer : ([0x00#8] : List Byte).length < 2 ∧ ([] : List Byte).length < 2 := by decide

theorem witness_CrcInstancesIndependent : bound.busy = false ∧
    ∀ i ∈ [Instr.crcUpdb .tx 0x02#8, .crcReset .rx, .crcUpd .rx [0x07#8], .crcAppend [0x02#8], .crcVerify [0xFF#8, 0xFF#8],
      .crcGet .tx, .crcSum .rx []], i.engine ≠ none := ⟨rfl, by decide⟩

theorem witness_CrcAlgebra : bound.busy = false := rfl

theorem witness_CrcResidueZero : 2 ≤ ([0xFF#8, 0xFF#8] : List Byte).length ∧ checksumHolds [0xFF#8, 0xFF#8] := by
  unfold checksumHolds
  decide +kernel

theorem witness_TimestampUnpack : (bytes [0x16, 0x09, 0x05, 0x0D, 0x00]).length < 6 := by decide

theorem witness_TimestampRoundTrip : (bytes [0xFF, 0x0D, 0x20, 0x18, 0x3C, 0x3D]).length = 6 ∧
    tsPack ⟨2255, 255, 255, 255, 255, 255⟩ = .ok (bytes [0xFF, 0xFF, 0xFF, 0xFF, 0xFF, 0xFF]) := by decide

theorem witness_ArchiveUnpack : (List.replicate 9 0#8).length < 10 ∧ ((List.replicate 11 0#8).length - 10) % 4 ≠ 0 ∧
    ((List.replicate 13 0#8).length - 10) % 4 ≠ 0 := by decide

theorem witness_RequestFrameIsWhole : bound.busy = false ∧ (List.replicate 245 0#8).length ≤ 245 := by decide +kernel

theorem witness_ChannelEncode : (∀ d ∈ [1, 32], 1 ≤ d ∧ d ≤ 32) ∧ (0 < 1 ∨ 0 > 32) ∧ (33 < 1 ∨ 33 > 32) ∧ [1, 32] ≠ [] := by
  decide

theorem witness_ChannelDecode : chmEncode [3, 1, 3] = .ok 0x00000005#32 := by decide +kernel

theorem witness_ErrorCodeNames : params.errTable = Config.defaultErrTable ∧ 9 ≤ (0x09#8 : Byte).toNat := by decide

theorem witness_MessageIdAllocation : (0xFFFF#16 : Half) ≠ 0#16 := by decide

theorem witness_ExecIssueChecks : Operands.zero.unbuildable = none ∧
    ({ Operands.zero with unbuildable := some .emptyChannelSet }).unbuildable = some .emptyChannelSet ∧
    accepted.busy = true ∧ State.reset.busy = false ∧ State.reset.addrV = false ∧ bound.busy = false ∧ bound.addrV = true ∧
    (List.replicate 246 0#8).length > 245 ∧ (List.replicate 245 0#8).length ≤ 245 := by decide +kernel

theorem witness_DiscoverAndModelIssue : accepted.busy = true ∧ State.reset.busy = false ∧ State.reset.addrV = false ∧
    bound.busy = false ∧ bound.addrV = true := by decide

theorem witness_BusyRefusesEveryCommand : Instr.isHost .midNext = true ∧ accepted.busy = true ∧
    State.landing { accepted with inputs := [⟨0, false, .cmd ⟨0x00#8, .zero⟩⟩] } = some (.cmd ⟨0x00#8, .zero⟩) := by decide

theorem witness_ReservedCommandCodes :
    State.landing { accepted with inputs := [⟨0, false, .cmd ⟨0x1F#8, .zero⟩⟩] } = some (.cmd ⟨0x1F#8, .zero⟩) ∧
    State.landing { bound with inputs := [⟨0, true, .cmd ⟨0x26#8, .zero⟩⟩] } = some (.cmd ⟨0x26#8, .zero⟩) ∧
    decodeCmd ⟨0x1F#8, .zero⟩ = .error (.reservedOp 0x1F#8) ∧ decodeCmd ⟨0x26#8, .zero⟩ = .error (.noEngine 0x26#8) ∧
    accepted.busy = true ∧ bound.busy = false ∧ bound.seq = .idle ∧ bound.op = none := by decide

theorem witness_BuildRow :
    accepted.landing = none ∧ accepted.seq = .build ∧ accepted.txbuf.wf ∧ accepted.op = some (.execute 0x04#8 []) ∧
    State.op { accepted with op := some (.execute 0x06#8 (List.replicate 245 0#8)) } =
      some (.execute 0x06#8 (List.replicate 245 0#8)) ∧ (List.replicate 245 0#8).length ≤ 245 ∧
    State.op { accepted with op := some .model } = some .model ∧ accepted.params.modelPayload.length ≤ 245 ∧
    State.op { accepted with op := some .discover } = some .discover ∧ accepted.params.discReq.length = 11 := by
  decide +kernel

theorem witness_SendRows :
    (inFlight 0x04#8 .txPrep).landing = none ∧ (inFlight 0x04#8 .txWrite).landing = none ∧
    (inFlight 0x04#8 .txWrite).transport.nextTx =
      (done, { (inFlight 0x04#8 .txWrite).transport with tx := [done] }) ∧
    (inFlight 0x04#8 .txWrite).transport.inTime done.took ∧
    (inFlight 0x04#8 .txWrite).transport.inTime 10 ∧ ¬ (inFlight 0x04#8 .txFlush).transport.inTime 11 ∧
    (⟨.timedOut, 0, 0, 0, 0⟩ : TxAnswer).outcome = .timedOut ∧ (⟨.failed 7, 0, 0, 0, 0⟩ : TxAnswer).outcome = .failed 7 := by
  refine ⟨rfl, rfl, rfl, ?_, ?_, fun h => ?_, rfl, rfl⟩
  · rintro e ⟨rfl⟩
    decide
  · rintro e ⟨rfl⟩
    decide
  · exact absurd (h 10 rfl) (by decide)

theorem witness_HeaderRows :
    (inFlight 0x04#8 .rxPrep).landing = none ∧ (inFlight 0x04#8 .rxHdr).landing = none ∧
    (inFlight 0x04#8 .rxHdr).op = some (.execute 0x04#8 []) ∧ (inFlight 0x04#8 .rxHdr).rxbuf.wf ∧
    (now (response.take 6)).length = 6 ∧
    State.transport { inFlight 0x04#8 .rxHdr with transport :=
        { (inFlight 0x04#8 .rxHdr).transport with rx := arrivals (now (response.take 6)) } } =
      { (inFlight 0x04#8 .rxHdr).transport with rx := arrivals (now (response.take 6)) ++ [] } ∧
    (inFlight 0x04#8 .rxHdr).transport.inTime (waits (now (response.take 6))) ∧
    (byteAt (octets (now (bytes [0x00, 0x12, 0x34, 0x56, 0x04, 0x0A]))) 5).toNat < 11 ∧
    11 ≤ (byteAt (octets (now (bytes [0x00, 0x12, 0x34, 0x56, 0x04, 0x0B]))) 5).toNat := by
  refine ⟨rfl, rfl, rfl, by decide, rfl, rfl, ?_, by decide, by decide⟩
  rintro e ⟨rfl⟩
  decide

theorem witness_RemainderRow :
    atBody.landing = none ∧ atBody.seq = .rxBody ∧ atBody.op = some (.execute 0x04#8 []) ∧ atBody.rxbuf.wf ∧
    atBody.rem.toNat ≤ 249 ∧ (now (response.drop 6)).length = atBody.rem.toNat ∧
    atBody.transport.inTime (waits (now (response.drop 6))) ∧
    State.rem { atBody with rem := 249#8 } = 249#8 ∧ (now (List.replicate 249 0#8)).length = 249 := by
  refine ⟨rfl, rfl, rfl, by decide, by decide, rfl, ?_, rfl, by decide +kernel⟩
  rintro e ⟨rfl⟩
  decide

theorem witness_FailedReadLosesItsBytes :
    (inFlight 0x04#8 .rxHdr).landing = none ∧ (inFlight 0x04#8 .rxHdr).readSize = some 6 ∧ atBody.readSize = some 10 ∧
    (now (response.take 5)).length < 6 ∧
    (inFlight 0x04#8 .rxHdr).transport.inTime (waits (now (response.take 5))) ∧
    (inFlight 0x04#8 .rxHdr).transport.inTime (waits (now (response.take 5)) + 10) ∧
    ¬ (inFlight 0x04#8 .rxHdr).transport.inTime (waits (now (response.take 5)) + 11) := by
  refine ⟨rfl, rfl, rfl, by decide, ?_, ?_, fun h => absurd (h 10 rfl) (by decide)⟩
  · rintro e ⟨rfl⟩
    decide
  · rintro e ⟨rfl⟩
    decide

theorem witness_FrameAddressFilter :
    Instr.frameOf (.fnReadTime (frameFields response)) = some (0x04#8, frameFields response) ∧
    (inFlight 0x04#8 .rxFilt).op = some (.execute 0x04#8 []) ∧ (inFlight 0x04#8 .rxFilt).seq = .rxFilt ∧
    (frameFields response).addr = (inFlight 0x04#8 .rxFilt).addr ∧
    (frameFields foreignB).addr ≠ (inFlight 0x04#8 .rxFilt).addr ∧
    (∀ m, limited.maxSkips = some m → 0 + 1 ≤ m) ∧ limited.maxSkips = some 1 ∧ 1 < 1 + 1 := by
  refine ⟨rfl, rfl, rfl, by decide +kernel, by decide +kernel, ?_, rfl, by decide⟩
  rintro m ⟨rfl⟩
  decide

theorem witness_FrameChecksumCheck :
    Instr.frameOf (.fnReadTime (frameFields response)) = some (0x04#8, frameFields response) ∧
    (inFlight 0x04#8 .chkCrc).op = some (.execute 0x04#8 []) ∧ (inFlight 0x04#8 .chkCrc).seq = .chkCrc ∧
    crc16 (checkedBytes 0x04#8 (frameFields response)) = (frameFields response).checksum ∧
    crc16 (checkedBytes 0x04#8 (frameFields badChecksum)) ≠ (frameFields badChecksum).checksum := by decide +kernel

theorem witness_ErrorFrameTest :
    (inFlight 0x01#8 .chkErr).op = some (.execute 0x01#8 []) ∧ (inFlight 0x01#8 .chkErr).seq = .chkErr ∧
    (frameFields errorFrame).payload = [0x02#8] ∧
    Instr.frameOf (.fnReadTime (frameFields response)) = some (0x04#8, frameFields response) ∧ (0x04#8 : Byte) ≠ 0x00#8 := by
  decide +kernel

theorem witness_FunctionMatchAndReturn :
    Instr.frameOf (.fnReadTime (frameFields response)) = some (0x04#8, frameFields response) ∧
    Instr.frameOf (.fnWriteTime (frameFields otherCode)) = some (0x05#8, frameFields otherCode) ∧
    (inFlight 0x04#8 .chkFn).op = some (.execute 0x04#8 []) ∧ (inFlight 0x04#8 .chkFn).seq = .chkFn ∧
    0x04#8 = (inFlight 0x04#8 .chkFn).reqfn ∧ 0x05#8 ≠ (inFlight 0x04#8 .chkFn).reqfn := by decide +kernel

theorem witness_FrameElsewhereWaits :
    Instr.frameOf (.fnReadTime (frameFields response)) = some (0x04#8, frameFields response) ∧ bound.holdsFrame = false ∧
    (inFlight 0x04#8 .rxHdr).holdsFrame = false := by decide +kernel

/-- The frame `b` in hand at `RX_FILT` meets what `HeldFrameOfAnyCode` asks of an `EXEC 0x04`. -/
def heldWell (fn : Byte) (b : List Byte) : Prop :=
  let s := holding 0x04#8 .rxFilt b
  let f := frameFields b
  s.inputs = [] ∧ s.op = some (.execute 0x04#8 []) ∧ s.seq = .rxFilt ∧ s.reqfn = 0x04#8 ∧ s.rxBytes = frameBytes fn f ∧
    f.wellFormed = true ∧ f.addr = s.addr

theorem witness_HeldFrameOfAnyCode :
    heldWell 0x04#8 badChecksum ∧
    crc16 (checkedBytes 0x04#8 (frameFields badChecksum)) ≠ (frameFields badChecksum).checksum ∧
    heldWell 0x00#8 errorFrame ∧
    crc16 (checkedBytes 0x00#8 (frameFields errorFrame)) = (frameFields errorFrame).checksum ∧
    heldWell 0x04#8 response ∧ crc16 (checkedBytes 0x04#8 (frameFields response)) = (frameFields response).checksum ∧
    heldWell 0x02#8 unassigned ∧
    crc16 (checkedBytes 0x02#8 (frameFields unassigned)) = (frameFields unassigned).checksum := by
  unfold heldWell
  decide +kernel

theorem witness_SequencerTransitions :
    (bound.Inv ∧ bound.seq = .idle ∧ bound.addrV = true) ∧
    (State.Inv { bound with addrV := false } ∧ State.seq { bound with addrV := false } = .idle) ∧
    ∀ s ∈ rows, s.Inv ∧ s.landing = none ∧ s.op = some (.execute 0x04#8 []) :=
  ⟨⟨bound_inv, rfl, rfl⟩, ⟨inv_of_check (by decide +kernel), rfl⟩,
    fun s hs => ⟨inv_of_check (rows_check s hs).1, (rows_check s hs).2⟩⟩

/-- V36 as an input of the whole exchange. -/
def exchange : State := { bound with
  inputs := [⟨0, true, .cmd ⟨0x13#8, executeArgs 0x04#8 (.built [])⟩⟩]
  transport := { bound.transport with
    tx := [done, done], rx := [now foreignA, now foreignB].flatMap arrivals ++ arrivals (now response) ++ [] } }

theorem witness_ExecExchange :
    exchange.Inv ∧ exchange.busy = false ∧ exchange.addrV = true ∧ ([] : List Byte).length ≤ 245 ∧
    exchange.inputs = [⟨0, true, .cmd ⟨0x13#8, executeArgs 0x04#8 (.built [])⟩⟩] ∧
    exchange.transport.tx = done :: done :: [] ∧ done.outcome = .done ∧ done.took + done.took ≤ exchange.params.timeout ∧
    exchange.transport.rx = [now foreignA, now foreignB].flatMap arrivals ++ arrivals (now response) ++ [] ∧
    (∀ x ∈ [now foreignA, now foreignB], isFrame (octets x) ∧ waits x ≤ exchange.params.timeout ∧
      be32At (octets x) 0 ≠ exchange.addr) ∧
    (∀ m, exchange.params.maxSkips = some m → [now foreignA, now foreignB].length ≤ m) ∧
    waits (now response) ≤ exchange.params.timeout ∧ octets (now response) = frameBytes 0x04#8 (frameFields response) ∧
    (frameFields response).wellFormed = true ∧ (frameFields response).payload ≠ [] ∧
    (frameFields response).addr = exchange.addr ∧ (0x04#8 : Byte) ≠ 0x00#8 ∧
    crc16 (checkedBytes 0x04#8 (frameFields response)) = (frameFields response).checksum := by
  refine ⟨inv_of_check (by decide +kernel), rfl, rfl, by decide, rfl, rfl, rfl, by decide, rfl, ?_, fun m h => (by cases h), ?_⟩
  · unfold isFrame
    decide +kernel
  · decide +kernel

/-- V44. -/
def discovery : List Byte := bytes [0xAA, 0x55, 0x00, 0x12, 0x34, 0x56, 0x01, 0x02, 0x19, 0x7B]
def discoveryBad : List Byte := bytes [0xAA, 0x55, 0x00, 0x12, 0x34, 0x56, 0x01, 0x02, 0x19, 0x7C]

/-- An idle unit with the command `code` and what the line will bring. -/
def asked (code : Byte) (rx : List RxEvent) : State := { bound with
  inputs := [⟨0, false, .cmd ⟨code, .zero⟩⟩], transport := { bound.transport with tx := [done, done], rx := rx } }

theorem witness_DiscoverExchange :
    (asked 0x14#8 (arrivals (now discovery))).Inv ∧ (asked 0x14#8 []).busy = false ∧
    (asked 0x14#8 []).inputs = [⟨0, false, .cmd ⟨0x14#8, .zero⟩⟩] ∧ (asked 0x14#8 []).transport.tx = [done, done] ∧
    done.outcome = .done ∧ done.took + done.took ≤ params.timeout ∧
    (now discovery).length = params.discRespLen ∧ waits (now discovery) ≤ params.timeout ∧
    checksumHolds (octets (now discovery)) ∧
    (now discoveryBad).length = params.discRespLen ∧ ¬ checksumHolds (octets (now discoveryBad)) := by
  refine ⟨inv_of_check (by decide +kernel), ?_⟩
  unfold checksumHolds
  decide +kernel

/-- V45: the model name response, which has no checksum, and the same with one. -/
def modelForeign : List Byte := bytes [0x00, 0x99, 0x99, 0x99, 0x0A, 0x39, 0x39, 0x39]
def modelAnswer : List Byte := bytes [0x00, 0x12, 0x34, 0x56, 0x0A, 0x31, 0x32, 0x33]

theorem witness_ModelExchange :
    (asked 0x15#8 (arrivals (now modelForeign) ++ arrivals (now modelAnswer))).Inv ∧ (asked 0x15#8 []).busy = false ∧
    (asked 0x15#8 []).addrV = true ∧ (asked 0x15#8 []).inputs = [⟨0, false, .cmd ⟨0x15#8, .zero⟩⟩] ∧
    (∀ y ∈ [now modelForeign], y.length = params.modelRespLen ∧ waits y ≤ params.timeout ∧
      be32At (octets y) 0 ≠ 0x00123456#32) ∧
    (now modelAnswer).length = params.modelRespLen ∧ waits (now modelAnswer) ≤ params.timeout ∧
    be32At (octets (now modelAnswer)) 0 = 0x00123456#32 ∧ ¬ checksumHolds (octets (now modelAnswer)) ∧
    checksumHolds (withChecksum (modelAnswer.take 6)) ∧ (withChecksum (modelAnswer.take 6)).length = params.modelRespLen := by
  refine ⟨inv_of_check (by decide +kernel), ?_⟩
  unfold checksumHolds
  decide +kernel

/-- An `EXEC 0x00` in flight; its checksum is checked before the function match (V41). -/
theorem witness_ErrorCodeRequestNeverSucceeds :
    (holding 0x00#8 .chkErr errorFrame).Inv ∧ (holding 0x00#8 .chkErr errorFrame).landing = none ∧
    (holding 0x00#8 .chkErr errorFrame).op = some (.execute 0x00#8 []) ∧
    ∃ t, step (holding 0x00#8 .chkErr errorFrame) = .next t := by
  refine ⟨inv_of_check (by decide +kernel), rfl, rfl, ?_⟩
  obtain ⟨t, h, -⟩ := step_row (s := holding 0x00#8 .chkErr errorFrame) rfl (by decide +kernel) rfl
    (fun fn p h => by injection h with h; injection h with _ h; subst h; decide) (fun h => by cases h)
  exact ⟨t, h⟩

theorem witness_ForeignFramesKeepTheLoop :
    (inFlight 0x04#8 .rxPrep).rxbuf.wf ∧ (inFlight 0x04#8 .rxPrep).inputs = [] ∧
    (inFlight 0x04#8 .rxPrep).op = some (.execute 0x04#8 []) ∧ (inFlight 0x04#8 .rxPrep).seq = .rxPrep ∧
    (inFlight 0x04#8 .rxPrep).params.maxSkips = none ∧
    (∀ x ∈ [now foreignA, now foreignB], isFrame (octets x) ∧ waits x ≤ (inFlight 0x04#8 .rxPrep).params.timeout ∧
      be32At (octets x) 0 ≠ (inFlight 0x04#8 .rxPrep).addr) := by
  unfold isFrame
  decide +kernel

theorem witness_BoundedSkipsMeansTermination :
    State.Inv { accepted with params := limited } ∧ accepted.busy = true ∧ limited.maxSkips = some 1 :=
  ⟨inv_of_check (by decide +kernel), rfl, rfl⟩

theorem witness_StepKeepsInvariant : (bound.Inv ∧ ∃ t, step bound = .next t) ∧ accepted.Inv ∧ ∃ t, step accepted = .next t :=
  ⟨⟨bound_inv, bound_steps⟩, accepted_inv, accepted_steps⟩

theorem witness_UnitNeverStops : bound.Inv ∧ accepted.Inv ∧ ∀ s ∈ rows, s.Inv :=
  ⟨bound_inv, accepted_inv, fun s hs => inv_of_check (rows_check s hs).1⟩

theorem witness_AddressWriters : bound.Inv ∧ (∃ t, step bound = .next t) ∧ ∀ cut, bound.landing ≠ some (.reset cut) :=
  ⟨bound_inv, bound_steps, fun _ h => by cases h⟩

theorem witness_MessageIdWriters : accepted.Inv ∧ ∃ t, step accepted = .next t := ⟨accepted_inv, accepted_steps⟩

theorem witness_OneResultPerOperation : accepted.Inv ∧ accepted.landing = none ∧ ∃ t, step accepted = .next t :=
  ⟨accepted_inv, rfl, accepted_steps⟩

theorem witness_LogEventsOnSuccessOnly : accepted.Inv ∧ accepted.landing = none ∧ ∃ t, step accepted = .next t :=
  ⟨accepted_inv, rfl, accepted_steps⟩

/-- At `RX_HDR` behind the flush of the request. -/
theorem witness_FlushBeforeEveryRead : accepted.Inv ∧
    (accepted.seq.receiving = true → lastOutput accepted.calls = some .txFlush) ∧ (∃ t, step accepted = .next t) ∧
    (inFlight 0x04#8 .rxHdr).seq.receiving = true ∧ lastOutput [.prepRead, .logReq, .txFlush] = some .txFlush :=
  ⟨accepted_inv, (fun h => absurd h (by decide)), accepted_steps, rfl, rfl⟩

/-- Between two rows, and inside a write, a flush and a read; of the read's six bytes none or five are consumed. -/
theorem witness_HardwareReset :
    (∀ cut, State.landing { accepted with inputs := [⟨0, false, .reset cut⟩] } = some (.reset cut)) ∧
    (∀ cut q, State.landing { inFlight 0x04#8 q with inputs := [⟨0, false, .reset cut⟩] } = some (.reset cut)) ∧
    (inFlight 0x04#8 .txPrep).readSize = none ∧ (inFlight 0x04#8 .txWrite).seq = .txWrite ∧
    (inFlight 0x04#8 .txFlush).seq = .txFlush ∧ (inFlight 0x04#8 .rxHdr).readSize = some 6 ∧
    ∀ n < 6, ∃ got : Timed, got.length = n ∧
      State.transport { inFlight 0x04#8 .rxHdr with transport := { State.reset.transport with rx := arrivals got } } =
        { State.reset.transport with rx := arrivals got ++ [] } ∧
      ({ State.reset.transport with rx := arrivals got } : Transport).inTime (waits got) :=
  ⟨fun _ => rfl, fun _ _ => rfl, rfl, rfl, rfl, rfl,
    fun n _ => ⟨List.replicate n (0, 0#8), by simp, by simp, by simp [Transport.inTime, State.reset]⟩⟩

theorem witness_StepRunsDecodedInstruction :
    (State.landing { bound with inputs := [⟨0, false, .cmd ⟨0x12#8, .zero⟩⟩] } = some (.cmd ⟨0x12#8, .zero⟩) ∧
      decodeCmd ⟨0x12#8, .zero⟩ = .ok .midNext) ∧
    ((holding 0x04#8 .rxFilt response).landing = none ∧ (holding 0x04#8 .rxFilt response).holdsFrame = true ∧
      decodeFrame (holding 0x04#8 .rxFilt response).rxBytes = .ok (.fnReadTime (frameFields response))) ∧
    bound.landing = none ∧ bound.seq = .idle := by decide +kernel

theorem witness_DecodeEncodeAgree : Instr.wellFormed .rebind = true ∧
    Instr.wellFormed (.fnReadTime (frameFields response)) = true ∧
    Instr.wellFormed (.fnInputTest ⟨0#32, 0xFF#8, List.replicate 245 0#8, 0#16, 0#16⟩) = true := by decide +kernel

theorem witness_FrameDecodeIsExact : decodeFrame response = .ok (.fnReadTime (frameFields response)) ∧
    (response.take 9).length < 10 ∧ (byteAt (response ++ [0#8]) 5).toNat ≠ (response ++ [0#8]).length ∧
    10 ≤ request.length ∧ (byteAt request 5).toNat = request.length := by decide +kernel

theorem witness_RegisterMap : 0x14 ≤ 0x14 ∧ 7 ≤ 7 := by decide

end Sys2Proof.Tests
end

section
/-! Proofs of the state family (10_state.md). -/

namespace Sys2Proof.Machine

/-- Settles O55 (R28): the two checksum values and the message id come from the named constants of the configuration (D6,
D7), every other register from `State.reset` itself. -/
theorem resetValues : Obligations.ResetValues := by
  unfold Obligations.ResetValues
  simp only [State.reset, Config.crcInit, Config.midReset, and_self]

end Sys2Proof.Machine
end

section
/-! Proofs of the encoding family (30_encoding.md). -/

namespace Sys2Proof.Machine

/-! ### What the decoder refuses (R84 to R86) -/

/-- The field `k` of a command code as a digit of its number (R84). -/
theorem engineBit_iff (code : Byte) : code.getLsbD 5 = true ↔ code.toNat / 32 % 2 = 1 := by
  rw [BitVec.getLsbD, Nat.testBit_eq_decide_div_mod_eq, decide_eq_true_iff]

theorem withoutEngine_error_iff (code : Byte) (i : Instr) :
    (∃ e, withoutEngine code i = .error e) ↔ code.toNat / 32 % 2 = 1 := by
  rw [← engineBit_iff]
  unfold withoutEngine
  split <;> simp_all

/-- The operations with two engines accept either `k` (R85). -/
theorem decodeOp_engine {op : Nat} (h₁ : 1 ≤ op) (h₂ : op ≤ 5) (c : CmdWrite) : ∃ i, decodeOp op c = .ok i := by
  interval_cases op <;> exact ⟨_, rfl⟩

/-- The other assigned operations take no `k` (R85). -/
theorem decodeOp_withoutEngine {op : Nat} (h₁ : 6 ≤ op) (h₂ : op ≤ 0x15) (c : CmdWrite) :
    ∃ i, decodeOp op c = withoutEngine c.code i := by
  interval_cases op <;> exact ⟨_, rfl⟩

/-- The operation numbers without a row in R85. -/
theorem decodeOp_reserved {op : Nat} (h : op = 0 ∨ 0x16 ≤ op) (c : CmdWrite) :
    decodeOp op c = .error (.reservedOp c.code) := by
  unfold decodeOp
  split
  case h_22 => rfl
  all_goals omega

theorem decodeOp_error_iff (op : Nat) (c : CmdWrite) :
    (∃ e, decodeOp op c = .error e) ↔ op = 0 ∨ op ≥ 0x16 ∨ (c.code.toNat / 32 % 2 = 1 ∧ op ≥ 6) := by
  have hcases : (op = 0 ∨ 0x16 ≤ op) ∨ (1 ≤ op ∧ op ≤ 5) ∨ (6 ≤ op ∧ op ≤ 0x15) := by omega
  rcases hcases with hop | ⟨h₁, h₂⟩ | ⟨h₁, h₂⟩
  · simp only [decodeOp_reserved hop, Except.error.injEq, exists_eq', true_iff]
    omega
  · obtain ⟨i, hi⟩ := decodeOp_engine h₁ h₂ c
    simp only [hi, reduceCtorEq, exists_false, false_iff]
    omega
  · obtain ⟨i, hi⟩ := decodeOp_withoutEngine h₁ h₂ c
    rw [hi, withoutEngine_error_iff]
    omega

/-- A clear field [7:6] leaves the codes below 64. -/
theorem reservedField_clear_iff (code : Byte) : code.extractLsb' 6 2 = 0#2 ↔ code.toNat < 64 := by
  rw [← BitVec.toNat_inj, BitVec.extractLsb'_toNat, Nat.shiftRight_eq_div_pow, BitVec.toNat_ofNat]
  have := code.isLt
  omega

theorem opField_toNat (code : Byte) : (code.extractLsb' 0 5).toNat = code.toNat % 32 := by
  rw [BitVec.extractLsb'_toNat, Nat.shiftRight_zero]

/-- R86: the reserved command codes are those the decoder refuses. -/
theorem decodeCmd_error_iff (c : CmdWrite) : (∃ e, decodeCmd c = .error e) ↔
    (c.code.toNat % 32 = 0 ∨ c.code.toNat % 32 ≥ 0x16 ∨ c.code.toNat ≥ 64 ∨
      (c.code.toNat / 32 % 2 = 1 ∧ c.code.toNat % 32 ≥ 6)) := by
  unfold decodeCmd
  simp only [reservedField_clear_iff, opField_toNat]
  split
  case isTrue hlow =>
    rw [decodeOp_error_iff]
    omega
  case isFalse hhigh =>
    simp only [Except.error.injEq, exists_eq', true_iff]
    omega

/-! ### What a refusal changes (R86, R240, R270) -/

/-- With no operation in flight, taking an error changes `KIND` and `DONE` alone, besides the result given by value. -/
theorem State.raise_of_idle {s : State} (hbusy : s.busy = false) (hseq : s.seq = .idle) (hop : s.op = none) (e : Err) :
    s.raise e = { s with kind := e.kind, done := true, answers := .err e :: s.answers } := by
  unfold State.raise
  rw [← hbusy, ← hseq, ← hop]

/-- A reserved code that lands on a busy unit is refused as any other command (R270). -/
theorem step_reserved_busy {s : State} {c : CmdWrite} {e : DecodeError} (hl : s.landing = some (.cmd c))
    (hd : decodeCmd c = .error e) (hbusy : s.busy = true) :
    step s = .next { s with inputs := s.inputs.tail, answers := .err .busyRefused :: s.answers } :=
  (step_reserved hl hd).trans (unlessBusy_busy _ hbusy)

/-- A reserved code that lands on an idle unit is refused with `ILLEGAL_CMD` (R86). -/
theorem step_reserved_idle {s : State} {c : CmdWrite} {e : DecodeError} (hl : s.landing = some (.cmd c))
    (hd : decodeCmd c = .error e) (hbusy : s.busy = false) (hseq : s.seq = .idle) (hop : s.op = none) :
    step s = .next
      { s with
        inputs := s.inputs.tail, kind := .illegalCmd, done := true
        answers := .err (.illegalCmd c.code) :: s.answers } :=
  calc step s
    _ = .next (({ s with inputs := s.inputs.tail } : State).raise (.illegalCmd c.code)) :=
      (step_reserved hl hd).trans (unlessBusy_free _ hbusy)
    _ = _ := congrArg _ (State.raise_of_idle (s := { s with inputs := s.inputs.tail }) hbusy hseq hop _)

/-- Settles O27 (R86): the codes by the rows of R85, the refusal by the step of a reserved code. -/
theorem reservedCommandCodes : Obligations.ReservedCommandCodes := by
  unfold Obligations.ReservedCommandCodes
  exact ⟨decodeCmd_error_iff, fun _ _ _ hl hd => ⟨step_reserved_busy hl hd, step_reserved_idle hl hd⟩⟩

end Sys2Proof.Machine
end

section
/-! Proofs of the checksum family (40_checksum.md). -/

namespace Sys2Proof.Machine

/-! ### The byte step in plain arithmetic (R100) -/

/-- One of the eight iterations of R100 on the number of a running value. -/
def crcShiftNat (x : Nat) : Nat := if x % 2 = 1 then (x / 2) ^^^ 0xA001 else x / 2

theorem crcShift_toNat (c : Half) : (crcShift c).toNat = crcShiftNat c.toNat := by
  have hlow : c.getLsbD 0 = decide (c.toNat % 2 = 1) := Nat.testBit_zero c.toNat
  unfold crcShift crcShiftNat
  simp only [hlow, decide_eq_true_eq]
  split <;> simp [Config.crcPoly, Nat.shiftRight_eq_div_pow]

theorem repeat_crcShift_toNat (n : Nat) (c : Half) :
    (Nat.repeat crcShift n c).toNat = Nat.repeat crcShiftNat n c.toNat := by
  induction n with
  | zero => rfl
  | succ n ih => exact (crcShift_toNat _).trans (congrArg crcShiftNat ih)

theorem crcStep_toNat (c : Half) (b : Byte) :
    (crcStep c b).toNat = Nat.repeat crcShiftNat 8 (c.toNat ^^^ b.toNat) := by
  rw [crcStep, repeat_crcShift_toNat, BitVec.toNat_xor, BitVec.toNat_setWidth_of_le (by decide)]

/-- Settles O1 (R100, R101): the byte step by its eight iterations, the fold by its equations. -/
theorem crcByteStepAndFold : Obligations.CrcByteStepAndFold := by
  unfold Obligations.CrcByteStepAndFold
  exact ⟨crcStep_toNat, crcFold_nil, crcFold_cons, fun _ => rfl⟩

/-! ### What each operation of the engine does (R102 to R108) -/

theorem exec_crcReset (k : Engine) (s : State) :
    exec (.crcReset k) s = .next (s.immediate (s.setCrc k Config.crcInit) (.ok .none)) := unlessBusy_ret s _ _

theorem exec_crcUpdb (k : Engine) (b : Byte) (s : State) :
    exec (.crcUpdb k b) s = .next (s.immediate (s.setCrc k (crcStep (s.crc k) b)) (.ok .none)) := unlessBusy_ret s _ _

theorem exec_crcUpd (k : Engine) (b : List Byte) (s : State) :
    exec (.crcUpd k b) s = .next (s.immediate (s.setCrc k (crcFold b (s.crc k))) (.ok .none)) := unlessBusy_ret s _ _

theorem exec_crcSum (k : Engine) (b : List Byte) (s : State) :
    exec (.crcSum k b) s = .next (s.immediate (s.setCrc k (crc16 b)) (.ok (.half (crc16 b)))) := unlessBusy_ret s _ _

theorem exec_crcGet (k : Engine) (s : State) :
    exec (.crcGet k) s = .next (s.immediate s (.ok (.half (s.crc k)))) := unlessBusy_ret s _ _

theorem exec_crcAppend (b : List Byte) (s : State) :
    exec (.crcAppend b) s = .next (s.immediate (s.setCrc .tx (crc16 b)) (.ok (.bytes (withChecksum b)))) :=
  unlessBusy_ret s _ _

/-- The result of an operation that returns no value, by the error it raises if there is one. -/
def verdict : Option Err → Except Err Value
  | none => .ok .none
  | some e => .error e

theorem verdict_ite (p : Prop) [Decidable p] (e : Err) :
    verdict (if p then none else some e) = if p then .ok .none else .error e := by
  split <;> rfl

theorem exec_crcVerify (f : List Byte) (s : State) :
    exec (.crcVerify f) s = .next (s.immediate (s.verify f).1 (verdict (s.verify f).2)) := by
  show execCrcVerify f s = _
  unfold execCrcVerify
  obtain ⟨t, _ | e⟩ := s.verify f
  · exact unlessBusy_ret s t _
  · exact unlessBusy_raise s t e

/-! ### The command codes of the engine (R84, R85) -/

theorem decodeCmd_codeOf (op : BitVec 5) (k : Engine) (a : Operands) :
    decodeCmd ⟨codeOf op k, a⟩ = decodeOp op.toNat ⟨codeOf op k, a⟩ := by
  have hreserved : (codeOf op k).extractLsb' 6 2 = 0#2 := by revert op; cases k <;> decide
  have hop : (codeOf op k).extractLsb' 0 5 = op := by revert op; cases k <;> decide
  rw [decodeCmd, if_pos hreserved, hop]

theorem engineOf_codeOf (op : BitVec 5) (k : Engine) : engineOf (codeOf op k) = k := by
  revert op; cases k <;> decide

theorem withoutEngine_codeOf_tx (op : BitVec 5) (i : Instr) : withoutEngine (codeOf op .tx) i = .ok i := by
  have hbit : (codeOf op .tx).getLsbD 5 = false := by revert op; decide
  rw [withoutEngine, hbit, if_neg Bool.false_ne_true]

section Codes
variable (k : Engine) (a : Operands)

theorem decodeCmd_crcReset : decodeCmd ⟨codeOf 0x01#5 k, a⟩ = .ok (.crcReset k) := by
  simp [decodeCmd_codeOf, decodeOp, engineOf_codeOf]
theorem decodeCmd_crcUpdb : decodeCmd ⟨codeOf 0x02#5 k, a⟩ = .ok (.crcUpdb k a.byte) := by
  simp [decodeCmd_codeOf, decodeOp, engineOf_codeOf]
theorem decodeCmd_crcSum : decodeCmd ⟨codeOf 0x04#5 k, a⟩ = .ok (.crcSum k a.bytes) := by
  simp [decodeCmd_codeOf, decodeOp, engineOf_codeOf]
theorem decodeCmd_crcGet : decodeCmd ⟨codeOf 0x05#5 k, a⟩ = .ok (.crcGet k) := by
  simp [decodeCmd_codeOf, decodeOp, engineOf_codeOf]
theorem decodeCmd_crcAppend : decodeCmd ⟨codeOf 0x06#5 .tx, a⟩ = .ok (.crcAppend a.bytes) := by
  simp [decodeCmd_codeOf, decodeOp, withoutEngine_codeOf_tx]
theorem decodeCmd_crcVerify : decodeCmd ⟨codeOf 0x07#5 .tx, a⟩ = .ok (.crcVerify a.bytes) := by
  simp [decodeCmd_codeOf, decodeOp, withoutEngine_codeOf_tx]

end Codes

/-- Settles O2 (R102, R103). -/
theorem crcResetAndUpdateByte : Obligations.CrcResetAndUpdateByte := by
  unfold Obligations.CrcResetAndUpdateByte
  exact ⟨fun a =>
    ⟨decodeCmd_crcReset .tx a, decodeCmd_crcReset .rx a, decodeCmd_crcUpdb .tx a, decodeCmd_crcUpdb .rx a⟩, fun s b =>
    ⟨exec_crcReset .tx s, exec_crcReset .rx s, exec_crcUpdb .tx b s, exec_crcUpdb .rx b s⟩⟩

/-- Settles O4 (R105, R108): the value after reset is the one `CRC.GET` finds in the reset state. -/
theorem crcSumAndGet : Obligations.CrcSumAndGet := by
  unfold Obligations.CrcSumAndGet
  refine ⟨fun a => ⟨decodeCmd_crcSum .tx a, decodeCmd_crcSum .rx a, decodeCmd_crcGet .tx a, decodeCmd_crcGet .rx a⟩,
    fun s b => ⟨exec_crcSum .tx b s, exec_crcSum .rx b s⟩,
    fun s => ⟨exec_crcGet .tx s, exec_crcGet .rx s⟩, fun k => ?_⟩
  cases k
  · exact exec_crcGet .tx State.reset
  · exact exec_crcGet .rx State.reset

/-- Settles O5 (R106): `le16Bytes` puts the low byte first. -/
theorem crcAppendAddsLittleEndian : Obligations.CrcAppendAddsLittleEndian := by
  unfold Obligations.CrcAppendAddsLittleEndian
  exact ⟨decodeCmd_crcAppend, fun s b => exec_crcAppend b s⟩

/-! ### `CRC.VERIFY` on bytes with a trailer (R107) -/

/-- `LE16` of two bytes as a shift and an OR (R5). -/
theorem le16_eq_or (x y : Byte) : le16 x y = x.setWidth 16 ||| (y.setWidth 16 <<< 8) := by
  rw [le16, BitVec.append_def, BitVec.or_comm, BitVec.shiftLeftZeroExtend_eq, BitVec.setWidth'_eq]

theorem le16At_append_pair (f : List Byte) (x y : Byte) : le16At (f ++ [x, y]) f.length = le16 x y := by
  rw [le16At, byteAt_append_right (Nat.le_refl _), byteAt_append_at [x, y] rfl 1, Nat.sub_self]
  rfl

/-- The checksum covers what stands before the trailer, and the trailer is what it is compared with (R107). -/
theorem State.verify_append_pair (s : State) (f : List Byte) (x y : Byte) :
    s.verify (f ++ [x, y]) =
      ({ s with
          crcRx := crc16 f, calccrc := crc16 f, recvcrc := le16 x y, crcOk := decide (crc16 f = le16 x y) },
        if crc16 f = le16 x y then none else some (.checksum (crc16 f) (le16 x y))) := by
  have hlen : (f ++ [x, y]).length = f.length + 2 := List.length_append
  rw [State.verify_eq (by omega), hlen, Nat.add_sub_cancel, List.take_left, le16At_append_pair]

/-- Settles O6 (R107): too short by the length alone, else the comparison with the trailer. -/
theorem crcVerifyComparesTrailer : Obligations.CrcVerifyComparesTrailer := by
  unfold Obligations.CrcVerifyComparesTrailer
  refine ⟨decodeCmd_crcVerify, fun s f hshort => ?_, fun s f x y => ?_⟩
  · rw [exec_crcVerify, State.verify_short hshort]
    rfl
  · rw [exec_crcVerify, State.verify_append_pair, ← le16_eq_or, verdict_ite]

/-! ### The two engines do not disturb each other (R111) -/

/-- What a checksum operation makes of the running value of its own engine; `CRC.GET` keeps it. -/
def nextCrc : Instr → Half → Half
  | .crcReset _, _ => Config.crcInit
  | .crcUpdb _ b, c => crcStep c b
  | .crcUpd _ b, c => crcFold b c
  | .crcSum _ b, _ => crc16 b
  | .crcAppend b, _ => crc16 b
  | .crcVerify f, c => if f.length < 2 then c else crc16 (f.take (f.length - 2))
  | _, c => c

theorem State.verify_crcRx (s : State) (f : List Byte) :
    (s.verify f).1.crcRx = if f.length < 2 then s.crcRx else crc16 (f.take (f.length - 2)) := by
  unfold State.verify
  split <;> rfl

/-- An operation on the engine `k` leaves a free unit free, gives `k` its next value and keeps the other engine. -/
def StepsOnly (i : Instr) (k : Engine) (s t : State) : Prop :=
  t.busy = false ∧ t.crc k = nextCrc i (s.crc k) ∧ ∀ j, j ≠ k → t.crc j = s.crc j

theorem StepsOnly.of_setCrc {i : Instr} {k : Engine} {s : State} {v : Half} (hfree : s.busy = false)
    (hv : nextCrc i (s.crc k) = v) : StepsOnly i k s (s.setCrc k v) :=
  ⟨by rw [State.setCrc_busy, hfree], by rw [State.crc_setCrc_same, hv], fun _ hj => State.crc_setCrc_other s hj v⟩

theorem stepsOnly_verify {s : State} (f : List Byte) (hfree : s.busy = false) :
    StepsOnly (.crcVerify f) .rx s (s.verify f).1 := by
  have hsame := s.verify_same f
  refine ⟨(congrArg State.busy hsame).trans hfree, s.verify_crcRx f, fun j hj => ?_⟩
  cases j
  · exact (congrArg State.crcTx hsame).trans rfl
  · exact absurd rfl hj

section Result
variable {s t : State} (r : Except Err Value)

/-- A free unit's result is written without touching the engine. -/
theorem State.immediate_crc (hfree : s.busy = false) (j : Engine) : (s.immediate t r).crc j = t.crc j := by
  cases r <;> cases j <;> simp [State.immediate, hfree, State.crc]

theorem State.immediate_busy (hfree : s.busy = false) (ht : t.busy = false) : (s.immediate t r).busy = false := by
  cases r <;> simp [State.immediate, hfree, ht]

end Result

theorem StepsOnly.immediate {i : Instr} {k : Engine} {s t : State} (hfree : s.busy = false) (h : StepsOnly i k s t)
    (r : Except Err Value) : StepsOnly i k s (s.immediate t r) := by
  obtain ⟨hbusy, hk, hother⟩ := h
  exact ⟨State.immediate_busy r hfree hbusy, (State.immediate_crc r hfree k).trans hk,
    fun j hj => (State.immediate_crc r hfree j).trans (hother j hj)⟩

/-- What any checksum operation does to the engine (R102 to R108, R111). -/
theorem exec_stepsOnly {i : Instr} {k : Engine} {s : State} (hi : i.engine = some k) (hfree : s.busy = false) :
    ∃ t, exec i s = .next t ∧ StepsOnly i k s t := by
  cases i <;> cases hi
  case crcReset => exact ⟨_, exec_crcReset k s, (StepsOnly.of_setCrc hfree rfl).immediate hfree _⟩
  case crcUpdb b => exact ⟨_, exec_crcUpdb k b s, (StepsOnly.of_setCrc hfree rfl).immediate hfree _⟩
  case crcUpd b => exact ⟨_, exec_crcUpd k b s, (StepsOnly.of_setCrc hfree rfl).immediate hfree _⟩
  case crcSum b => exact ⟨_, exec_crcSum k b s, (StepsOnly.of_setCrc hfree rfl).immediate hfree _⟩
  case crcGet =>
    have hkeep : StepsOnly (.crcGet k) k s s := ⟨hfree, rfl, fun _ _ => rfl⟩
    exact ⟨_, exec_crcGet k s, hkeep.immediate hfree _⟩
  case crcAppend b => exact ⟨_, exec_crcAppend b s, (StepsOnly.of_setCrc hfree rfl).immediate hfree _⟩
  case crcVerify f => exact ⟨_, exec_crcVerify f s, (stepsOnly_verify f hfree).immediate hfree _⟩

/-- The value of the engine `k` after a list of operations: those on `k` alone make it. -/
def crcAfter (k : Engine) (l : List Instr) (c : Half) : Half :=
  (l.filter (fun i => i.engine = some k)).foldl (fun c i => nextCrc i c) c

theorem crcAfter_cons (k : Engine) (i : Instr) (l : List Instr) (c : Half) :
    crcAfter k (i :: l) c = crcAfter k l (if i.engine = some k then nextCrc i c else c) := by
  unfold crcAfter
  by_cases h : i.engine = some k <;> simp [h]

/-- Dropping the operations on the other engine does not change the value. -/
theorem crcAfter_filter (k : Engine) (l : List Instr) (c : Half) :
    crcAfter k (l.filter (fun i => i.engine = some k)) c = crcAfter k l c := by
  unfold crcAfter
  rw [List.filter_filter]
  simp only [Bool.and_self]

theorem StepsOnly.crc_eq {i : Instr} {k : Engine} {s t : State} (hi : i.engine = some k) (h : StepsOnly i k s t)
    (j : Engine) : t.crc j = if i.engine = some j then nextCrc i (s.crc j) else s.crc j := by
  obtain ⟨-, hk, hother⟩ := h
  by_cases hj : j = k
  · subst hj
    rw [hk, if_pos hi]
  · rw [hother j hj, if_neg fun h => hj (Option.some.inj (h.symm.trans hi))]

/-- A list of checksum operations on a free unit gives each engine the value that its own operations make. -/
theorem execAll_crcAfter (l : List Instr) (s : State) (hfree : s.busy = false) (hl : ∀ i ∈ l, i.engine ≠ none) :
    ∃ t, execAll l s = .next t ∧ ∀ k, t.crc k = crcAfter k l (s.crc k) := by
  induction l generalizing s with
  | nil => exact ⟨s, rfl, fun _ => rfl⟩
  | cons i l ih =>
    obtain ⟨hi, hl⟩ := List.forall_mem_cons.1 hl
    obtain ⟨k, hk⟩ := Option.ne_none_iff_exists'.1 hi
    obtain ⟨u, hexec, hu⟩ := exec_stepsOnly hk hfree
    obtain ⟨t, ht, hcrc⟩ := ih u hu.1 hl
    refine ⟨t, by rw [execAll, hexec]; exact ht, fun j => ?_⟩
    rw [hcrc, crcAfter_cons, hu.crc_eq hk]

/-- The operations on the engine `k` alone give it the value the whole list gives it. -/
theorem execAll_filter_crcAfter (k : Engine) (l : List Instr) (s : State) (hfree : s.busy = false)
    (hl : ∀ i ∈ l, i.engine ≠ none) :
    ∃ u, execAll (l.filter (fun i => i.engine = some k)) s = .next u ∧ u.crc k = crcAfter k l (s.crc k) := by
  obtain ⟨u, hu, hcrc⟩ := execAll_crcAfter (l.filter (fun i => i.engine = some k)) s hfree
    fun i hi => hl i (List.mem_of_mem_filter hi)
  exact ⟨u, hu, (hcrc k).trans (crcAfter_filter k l _)⟩

/-- Settles O7 (R111): each engine ends with the value that its own operations make, in the interleaving and without
the other's operations. -/
theorem crcInstancesIndependent : Obligations.CrcInstancesIndependent := by
  unfold Obligations.CrcInstancesIndependent
  intro l s hfree hl
  obtain ⟨t, ht, hcrc⟩ := execAll_crcAfter l s hfree hl
  obtain ⟨u, hu, htx⟩ := execAll_filter_crcAfter .tx l s hfree hl
  obtain ⟨v, hv, hrx⟩ := execAll_filter_crcAfter .rx l s hfree hl
  exact ⟨t, u, v, ht, hu, hv, (hcrc .tx).trans htx.symm, (hcrc .rx).trans hrx.symm⟩

end Sys2Proof.Machine
end

section
/-! Proofs of the field codec family (41_codec.md). -/

namespace Sys2Proof.Machine

/-! ### The command codes and the operations of the codec (R84, R85, R120 to R129) -/

/-- A code with `k = 0` decodes to the instruction its row of R85 gives, on the rows that take no `k`. -/
theorem decodeCmd_of_row (op : BitVec 5) {a : Operands} {i : Instr}
    (hrow : decodeOp op.toNat ⟨codeOf op .tx, a⟩ = withoutEngine (codeOf op .tx) i) :
    decodeCmd ⟨codeOf op .tx, a⟩ = .ok i := by
  rw [decodeCmd_codeOf, hrow, withoutEngine_codeOf_tx]

section Exec
variable (s : State)

theorem exec_tsPack (t : Timestamp) :
    exec (.tsPack t) s = .next (s.immediate s ((tsPack t).map .bytes)) := unlessBusy_conclude s s _

theorem exec_tsUnpack (b : List Byte) :
    exec (.tsUnpack b) s = .next (s.immediate s ((tsUnpack b).map .time)) := unlessBusy_conclude s s _

theorem exec_arcUnpack (b : List Byte) :
    exec (.arcUnpack b) s = .next (s.immediate s (arcUnpack b)) := unlessBusy_conclude s s _

theorem exec_envEncode (addr : Word) (fn : Byte) (payload : List Byte) (id : Half) :
    exec (.envEncode addr fn payload id) s = .next (s.immediate s ((envEncode addr fn payload id).map .bytes)) :=
  unlessBusy_conclude s s _

theorem exec_chmEncode (l : List Nat) :
    exec (.chmEncode l) s = .next (s.immediate s ((chmEncode l).map .word)) := unlessBusy_conclude s s _

theorem exec_prmWpack (code : Half) (value : List Byte) :
    exec (.prmWpack code value) s = .next (s.immediate s ((prmWpack code value).map .bytes)) :=
  unlessBusy_conclude s s _

end Exec

/-! ### Timestamps (R120, R121) -/

/-- Settles O11 (R120): the two refusals of `tsPack` stand in the order of the statement. -/
theorem timestampPack : Obligations.TimestampPack := by
  unfold Obligations.TimestampPack
  refine ⟨fun _ => decodeCmd_of_row 0x08#5 rfl, fun s year month day hour minute second => ?_⟩
  rw [exec_tsPack, tsPack, apply_ite (Except.map Value.bytes), apply_ite (Except.map Value.bytes)]
  rfl

theorem tsUnpack_short {b : List Byte} (h : b.length < 6) : tsUnpack b = .error (.tooShort b.length) := if_pos h

/-- The fields are the first six bytes; the rest is not read. -/
theorem tsUnpack_cons (y mo d h mi se : Byte) (rest : List Byte) :
    tsUnpack (y :: mo :: d :: h :: mi :: se :: rest) =
      .ok ⟨2000 + y.toNat, mo.toNat, d.toNat, h.toNat, mi.toNat, se.toNat⟩ :=
  if_neg (Nat.not_lt.2 (Nat.le_add_left 6 rest.length))

/-- Settles O12 (R121). -/
theorem timestampUnpack : Obligations.TimestampUnpack := by
  unfold Obligations.TimestampUnpack
  refine ⟨fun _ => decodeCmd_of_row 0x09#5 rfl, fun s b hshort => ?_, fun s y mo d h mi se rest => ?_⟩
  · rw [exec_tsUnpack, tsUnpack_short hshort]
    rfl
  · rw [exec_tsUnpack, tsUnpack_cons]
    rfl

/-! ### Archive records (R123) -/

/-- Four bytes of an archive record, first byte first. -/
abbrev Quad := Byte × Byte × Byte × Byte

/-- The bytes of a sample as they stand in the record. -/
abbrev Quad.bytes (p : Quad) : List Byte := [p.1, p.2.1, p.2.2.1, p.2.2.2]

/-- The sample, little-endian. -/
abbrev Quad.word (p : Quad) : Word := le32 p.1 p.2.1 p.2.2.1 p.2.2.2

theorem arcSamples_quads (samples : List Quad) :
    arcSamples (samples.flatMap Quad.bytes) = some (samples.map Quad.word) := by
  induction samples with
  | nil => rfl
  | cons p samples ih =>
    show (arcSamples (samples.flatMap Quad.bytes)).map (p.word :: ·) = _
    rw [ih]
    rfl

/-- Bytes that are no whole number of samples have no samples. -/
theorem arcSamples_partial {b : List Byte} (h : b.length % 4 ≠ 0) : arcSamples b = none := by
  induction b using arcSamples.induct with
  | case1 => exact absurd rfl h
  | case2 a b c d rest ih =>
    have hrest : rest.length % 4 ≠ 0 := by
      simp only [List.length_cons] at h
      omega
    rw [arcSamples, ih hrest, Option.map_none]
  | case3 b hnil hquad =>
    rw [arcSamples]
    exacts [hnil, hquad]

theorem arcUnpack_short {b : List Byte} (h : b.length < 10) : arcUnpack b = .error (.tooShort b.length) := if_pos h

/-- Behind the header, 1 to 3 bytes left over are too short as well. -/
theorem arcUnpack_partial {b : List Byte} (h : (b.length - 10) % 4 ≠ 0) : arcUnpack b = .error (.tooShort b.length) := by
  have hlong : 10 ≤ b.length := by omega
  have hnone : arcSamples (b.drop 10) = none := arcSamples_partial (by rwa [List.length_drop])
  rw [arcUnpack, if_neg (Nat.not_lt.2 hlong), hnone]

/-- With whole samples behind it, the header gives the channel id and the start. -/
theorem arcUnpack_whole {b : List Byte} {samples : List Word} (hlong : 10 ≤ b.length)
    (hsamples : arcSamples (b.drop 10) = some samples) :
    arcUnpack b = .ok (.archive (le32At b 0) (tsFields (b.drop 4)) samples) := by
  rw [arcUnpack, if_neg (Nat.not_lt.2 hlong), hsamples]

theorem arcUnpack_record (c0 c1 c2 c3 y mo d h mi se : Byte) (samples : List Quad) :
    arcUnpack ([c0, c1, c2, c3, y, mo, d, h, mi, se] ++ samples.flatMap Quad.bytes) =
      .ok (.archive (le32 c0 c1 c2 c3) ⟨2000 + y.toNat, mo.toNat, d.toNat, h.toNat, mi.toNat, se.toNat⟩
        (samples.map Quad.word)) :=
  arcUnpack_whole (Nat.le_add_left 10 _) (arcSamples_quads samples)

/-- Settles O14 (R123): a record is a header of ten bytes and whole samples; any other length is too short. -/
theorem archiveUnpack : Obligations.ArchiveUnpack := by
  unfold Obligations.ArchiveUnpack
  refine ⟨fun _ => decodeCmd_of_row 0x0A#5 rfl, fun s b hlen => ?_,
    fun s c0 c1 c2 c3 y mo d h mi se samples => ?_⟩
  · rw [exec_arcUnpack, hlen.elim arcUnpack_short arcUnpack_partial]
  · rw [exec_arcUnpack, arcUnpack_record]

/-! ### Envelopes (R125) -/

/-- Settles O15 (R125): `be32Bytes` and `be16Bytes` put the high byte first. -/
theorem envelopeEncode : Obligations.EnvelopeEncode := by
  unfold Obligations.EnvelopeEncode
  refine ⟨fun _ => decodeCmd_of_row 0x0B#5 rfl, fun s addr fn payload id => ?_⟩
  rw [exec_envEncode, envEncode, apply_ite (Except.map Value.bytes)]
  rfl

/-! ### Channel masks (R127) -/

/-- The mask `m` with the bits of the channels `l` set too. -/
def channelMask (l : List Nat) (m : Word) : Word := l.foldl (fun m c => m ||| 1#32 <<< (c - 1)) m

/-- Good indices are put into the mask, and the loop goes on behind them. -/
theorem chmLoop_append {good : List Nat} (hgood : ∀ d ∈ good, 1 ≤ d ∧ d ≤ 32) (rest : List Nat) (m : Word) :
    chmLoop (good ++ rest) m = chmLoop rest (channelMask good m) := by
  induction good generalizing m with
  | nil => rfl
  | cons c good ih =>
    obtain ⟨⟨hlow, hhigh⟩, hgood⟩ := List.forall_mem_cons.1 hgood
    rw [List.cons_append, chmLoop, if_neg (Nat.not_lt.2 hlow), if_neg (Nat.not_lt.2 hhigh)]
    exact ih hgood _

theorem chmLoop_good {l : List Nat} (hgood : ∀ d ∈ l, 1 ≤ d ∧ d ≤ 32) (m : Word) :
    chmLoop l m = .ok (channelMask l m) := by
  rw [← List.append_nil l, chmLoop_append hgood, List.append_nil]
  rfl

/-- A bad index ends the loop, whatever stands behind it. -/
theorem chmLoop_bad {c : Nat} (hbad : c < 1 ∨ c > 32) (rest : List Nat) (m : Word) :
    chmLoop (c :: rest) m = .error (.argInvalid (if c < 1 then .channelZero else .channelAbove)) := by
  rw [chmLoop]
  by_cases hlow : c < 1
  · rw [if_pos hlow, if_pos hlow]
  · have hhigh : Config.maxChannel < c := hbad.resolve_left hlow
    rw [if_neg hlow, if_neg hlow, if_pos hhigh]

theorem chmEncode_of_ne_nil {l : List Nat} (h : l ≠ []) : chmEncode l = chmLoop l 0#32 := if_neg h

/-- Bit `i` of a mask stands for channel `i + 1`. -/
theorem channelBit_iff {c i : Nat} (hc : 1 ≤ c) (hi : i < 32) : (1#32 <<< (c - 1)).getLsbD i = true ↔ i + 1 = c := by
  simp only [BitVec.getLsbD_shiftLeft, BitVec.getLsbD_one, Bool.and_eq_true, decide_eq_true_eq, Bool.not_eq_true',
    decide_eq_false_iff_not]
  omega

theorem getLsbD_channelMask {l : List Nat} (hgood : ∀ d ∈ l, 1 ≤ d ∧ d ≤ 32) (m : Word) {i : Nat} (hi : i < 32) :
    (channelMask l m).getLsbD i = true ↔ m.getLsbD i = true ∨ i + 1 ∈ l := by
  induction l generalizing m with
  | nil => exact ⟨.inl, fun h => h.resolve_right List.not_mem_nil⟩
  | cons c l ih =>
    obtain ⟨⟨hlow, -⟩, hgood⟩ := List.forall_mem_cons.1 hgood
    calc (channelMask (c :: l) m).getLsbD i = true
      _ ↔ (m ||| 1#32 <<< (c - 1)).getLsbD i = true ∨ i + 1 ∈ l := ih hgood _
      _ ↔ (m.getLsbD i = true ∨ i + 1 = c) ∨ i + 1 ∈ l := by
        rw [BitVec.getLsbD_or, Bool.or_eq_true, channelBit_iff hlow hi]
      _ ↔ m.getLsbD i = true ∨ i + 1 ∈ c :: l := by rw [or_assoc, List.mem_cons]

/-- Settles O17 (R127): the loop puts the good indices into the mask and stops at the first bad one. -/
theorem channelEncode : Obligations.ChannelEncode := by
  unfold Obligations.ChannelEncode
  refine ⟨fun _ => decodeCmd_of_row 0x0C#5 rfl, fun s => exec_chmEncode s [],
    fun s good rest c hgood hbad => ?_, fun s l hne hgood => ⟨channelMask l 0#32, ?_, fun i hi => ?_⟩⟩
  · have hne : good ++ c :: rest ≠ [] := List.append_ne_nil_of_right_ne_nil _ (List.cons_ne_nil _ _)
    rw [exec_chmEncode, chmEncode_of_ne_nil hne, chmLoop_append hgood, chmLoop_bad hbad]
    rfl
  · rw [exec_chmEncode, chmEncode_of_ne_nil hne, chmLoop_good hgood]
    rfl
  · have hzero : ¬ (0#32).getLsbD i = true := by simp
    rw [getLsbD_channelMask hgood _ hi, or_iff_right hzero]

/-! ### Parameter writes (R129) -/

/-- Settles O19 (R129): `le16Bytes` puts the low byte of the code first. -/
theorem parameterWritePayload : Obligations.ParameterWritePayload := by
  unfold Obligations.ParameterWritePayload
  refine ⟨fun _ => decodeCmd_of_row 0x0E#5 rfl, fun s code value => ?_⟩
  rw [exec_prmWpack, prmWpack, apply_ite (Except.map Value.bytes)]
  rfl

end Sys2Proof.Machine
end

section
/-! Proofs of the sequencer family (42_orchestrator.md). -/

namespace Sys2Proof.Machine

/-! ### Binding and message ids (R150, R152) -/

/-- Settles O21 (R150). -/
theorem bindSetsAddress : Obligations.BindSetsAddress := by
  unfold Obligations.BindSetsAddress
  exact ⟨fun _ => decodeCmd_of_row 0x10#5 rfl, fun s _ => unlessBusy_ret s _ _⟩

theorem nextMid_toNat (m : Half) :
    (nextMid m).toNat = if (m.toNat + 1) % 65536 = 0 then 1 else (m.toNat + 1) % 65536 := by
  have hadd : (m + 1#16).toNat = (m.toNat + 1) % 65536 := BitVec.toNat_add m 1#16
  have hzero : m + 1#16 = 0#16 ↔ (m.toNat + 1) % 65536 = 0 := by rw [← BitVec.toNat_inj, hadd]; rfl
  rw [nextMid, apply_ite BitVec.toNat, hadd]
  simp only [hzero]
  rfl

/-- On the 65535 ids that are not 0, counted from 1, the allocation is the successor modulo 65535. -/
theorem repeat_nextMid_toNat {m : Half} (hm : m ≠ 0#16) (n : Nat) :
    (Nat.repeat nextMid n m).toNat = (m.toNat - 1 + n) % 65535 + 1 := by
  have hpos : m.toNat ≠ 0 := fun h => hm (BitVec.eq_of_toNat_eq h)
  have hlt := m.isLt
  induction n with
  | zero =>
    show m.toNat = _
    omega
  | succ n ih =>
    show (nextMid (Nat.repeat nextMid n m)).toNat = _
    rw [nextMid_toNat, ih]
    split <;> omega

/-- The allocation comes back to an id exactly after the multiples of 65535 steps. -/
theorem repeat_nextMid_eq_iff {m : Half} (hm : m ≠ 0#16) (n : Nat) : Nat.repeat nextMid n m = m ↔ n % 65535 = 0 := by
  have hpos : m.toNat ≠ 0 := fun h => hm (BitVec.eq_of_toNat_eq h)
  have hlt := m.isLt
  rw [← BitVec.toNat_inj, repeat_nextMid_toNat hm]
  omega

/-- Settles O23 (R152): the ids that are not 0 form one cycle of length 65535. -/
theorem messageIdAllocation : Obligations.MessageIdAllocation := by
  unfold Obligations.MessageIdAllocation
  refine ⟨fun _ => decodeCmd_of_row 0x12#5 rfl, fun s => ⟨nextMid s.mid, unlessBusy_ret s _ _, nextMid_toNat s.mid⟩,
    fun m hm => ⟨(repeat_nextMid_eq_iff hm _).2 (Nat.mod_self _), fun n hpos hlt heq => ?_⟩⟩
  have hmod := (repeat_nextMid_eq_iff hm n).1 heq
  omega

/-! ### The issue of `EXEC` (R156) -/

section Issue
variable {s : State} (fn : Byte)

theorem exec_execute_busy (p : Payload) (hbusy : s.busy = true) :
    exec (.execute fn p) s = .next { s with answers := .err .busyRefused :: s.answers } := unlessBusy_busy _ hbusy

theorem exec_execute_free (p : Payload) (hfree : s.busy = false) :
    exec (.execute fn p) s = .next (s.issueExecute fn p) := unlessBusy_free _ hfree

theorem State.issueExecute_unbound (p : Payload) (hunbound : s.addrV = false) :
    s.issueExecute fn p = s.errorEnd .notBound := if_pos hunbound

theorem State.issueExecute_unbuildable (why : ArgFault) (hbound : s.addrV = true) :
    s.issueExecute fn (.unbuildable why) = s.errorEnd (.argInvalid why) := by
  simp [State.issueExecute, hbound, State.raise_eq]

theorem State.issueExecute_tooLong {b : List Byte} (hbound : s.addrV = true) (hlong : b.length > 245) :
    s.issueExecute fn (.built b) = s.errorEnd (.argInvalid .payloadLength) := by
  simp [State.issueExecute, hbound, hlong, State.raise_eq]

theorem State.issueExecute_accepted {b : List Byte} (hbound : s.addrV = true) (hfits : b.length ≤ 245) :
    s.issueExecute fn (.built b) = s.accept (.execute fn b) := by
  simp [State.issueExecute, hbound, Nat.not_lt.2 hfits]

/-- An `EXEC` that is not accepted is refused with one of the errors of R156. -/
theorem State.issueExecute_refused {p : Payload}
    (hrefused : ¬ (s.addrV = true ∧ ∃ b, p = .built b ∧ b.length ≤ 245)) :
    ∃ e, s.issueExecute fn p = s.errorEnd e := by
  cases hbound : s.addrV with
  | false => exact ⟨_, issueExecute_unbound fn p hbound⟩
  | true =>
    cases p with
    | unbuildable why => exact ⟨_, issueExecute_unbuildable fn why hbound⟩
    | built b => exact ⟨_, issueExecute_tooLong fn hbound (Nat.not_le.1 fun h => hrefused ⟨hbound, b, rfl, h⟩)⟩

end Issue

theorem payloadOf_built {a : Operands} (h : a.unbuildable = none) : payloadOf a = .built a.bytes := by
  simp only [payloadOf, h]

theorem payloadOf_unbuildable {a : Operands} {why : ArgFault} (h : a.unbuildable = some why) :
    payloadOf a = .unbuildable why := by
  simp only [payloadOf, h]

theorem decodeCmd_execute (a : Operands) : decodeCmd ⟨0x13#8, a⟩ = .ok (.execute a.byte (payloadOf a)) :=
  decodeCmd_of_row 0x13#5 rfl

/-- Settles O24 (R156): `BUSY` before the address, the address before the payload. -/
theorem execIssueChecks : Obligations.ExecIssueChecks := by
  unfold Obligations.ExecIssueChecks
  refine ⟨fun a ha => by rw [decodeCmd_execute, payloadOf_built ha],
    fun a why ha => by rw [decodeCmd_execute, payloadOf_unbuildable ha],
    fun s fn p => ⟨exec_execute_busy fn p, fun hfree hunbound => ?_, fun hfree hbound why hp => ?_,
      fun hfree hbound b hp hlong => ?_, fun hfree hbound b hp hfits => ?_⟩⟩ <;>
    rw [exec_execute_free fn p hfree]
  · rw [State.issueExecute_unbound fn p hunbound]
  · rw [hp, State.issueExecute_unbuildable fn why hbound]
  · rw [hp, State.issueExecute_tooLong fn hbound hlong]
  · rw [hp, State.issueExecute_accepted fn hbound hfits]
    rfl

/-! ### The row `BUILD` (R157, R158) -/

/-- `EXEC` and `MODEL` build a request frame, each from its own function code and payload. -/
theorem stepBuild_request {s : State} {fn : Byte} {p : List Byte}
    (hop : s.op = some (.execute fn p) ∨ (s.op = some .model ∧ fn = s.params.modelFn ∧ p = s.params.modelPayload)) :
    stepBuild s = s.buildRequest fn p := by
  rcases hop with hop | ⟨hop, rfl, rfl⟩ <;> simp only [stepBuild, hop]

theorem stepBuild_discover {s : State} (hop : s.op = some .discover) : stepBuild s = s.loadTx s.params.discReq := by
  simp only [stepBuild, hop]

/-- A buffer with `b` written at its start: `b`, and behind it what was there. -/
theorem Memory.get?_setBytes_zero {m : Memory} (hwf : m.wf) {b : List Byte} {n : Nat} (hlen : b.length = n)
    (hfits : n ≤ 255) (i : Nat) : (m.setBytes 0 b).get? i = if i < n then b[i]? else m.get? i := by
  have hbuf : 0 + b.length ≤ Config.bufSize := by rw [Nat.zero_add, hlen]; exact hfits
  simp [Memory.get?_setBytes 0 b i hwf hbuf, hlen]

/-- Settles O28 (R157, R158, R180, R182): the request frame is the envelope with its checksum behind it. -/
theorem buildRow : Obligations.BuildRow := by
  unfold Obligations.BuildRow
  refine ⟨fun s fn p hland hseq hwf hlen hop => ?_, fun s hland hseq hwf hop hreq => ?_⟩
  · have hframe := requestFrame_length s.addr fn p (nextMid s.mid)
    refine ⟨_, _, rfl, Memory.get?_setBytes_zero hwf hframe (by omega), ?_⟩
    rw [step_build hland hseq, stepBuild_request (s := s.ticked) hop]
    exact State.buildRequest_eq hlen
  · refine ⟨_, Memory.get?_setBytes_zero hwf hreq (by decide), ?_⟩
    have hfits : s.ticked.params.discReq.length ≤ Config.bufSize := by rw [State.ticked_params, hreq]; decide
    rw [step_build hland hseq, stepBuild_discover (s := s.ticked) hop, State.loadTx_eq hfits, len8,
      State.ticked_params, hreq]
    rfl

/-! ### The rows on a frame in hand (R164 to R166, R168, R169) -/

section Held
variable {i : Instr} {fn g : Byte} {f : FrameFields} {s : State} {p : List Byte}

theorem exec_held_rxFilt (hi : i.frameOf = some (fn, f)) (hop : s.op = some (.execute g p)) (hseq : s.seq = .rxFilt) :
    exec i s = .next (filterFrame (frameBytes fn f) s) := by
  rw [exec_held hi hop (.inl hseq)]
  simp only [frameStage, hseq]

theorem exec_held_chkCrc (hi : i.frameOf = some (fn, f)) (hop : s.op = some (.execute g p)) (hseq : s.seq = .chkCrc) :
    exec i s = .next (checkFrame (frameBytes fn f) s) := by
  rw [exec_held hi hop (.inr (.inl hseq))]
  simp only [frameStage, hseq]

theorem exec_held_chkFn (hi : i.frameOf = some (fn, f)) (hop : s.op = some (.execute g p)) (hseq : s.seq = .chkFn) :
    exec i s = .next (matchFunction (frameBytes fn f) s) := by
  rw [exec_held hi hop (.inr (.inr (.inr hseq)))]
  simp only [frameStage, hseq]

end Held

theorem State.skip_within {s : State} (h : ∀ m, s.params.maxSkips = some m → s.skips + 1 ≤ m) :
    s.skip = { s with addrHit := false, skips := s.skips + 1, seq := .rxPrep } := by
  simp [State.skip, overLimit_false_iff.2 h]

theorem State.skip_past {s : State} {m : Nat} (hmax : s.params.maxSkips = some m) (hpast : m < s.skips + 1) :
    s.skip = ({ s with addrHit := false, skips := s.skips + 1 } : State).errorEnd (.skipLimit (s.skips + 1)) := by
  simp [State.skip, overLimit_iff.2 ⟨m, hmax, hpast⟩, State.raise_eq]

theorem filterFrame_own {f : List Byte} {s : State} (h : be32At f 0 = s.addr) :
    filterFrame f s = { s with addrHit := true, respfn := byteAt f 4, seq := .chkCrc } := if_pos h

theorem filterFrame_foreign {f : List Byte} {s : State} (h : be32At f 0 ≠ s.addr) : filterFrame f s = s.skip := if_neg h

/-- Settles O33 (R164, R165). -/
theorem frameAddressFilter : Obligations.FrameAddressFilter := by
  unfold Obligations.FrameAddressFilter
  intro i fn f s g p hi hop hseq
  have haddr := be32At_frameBytes fn f
  rw [exec_held_rxFilt hi hop hseq]
  refine ⟨fun hown => ?_, fun hforeign hwithin => ?_, fun m hforeign hmax hpast => ?_⟩
  · rw [filterFrame_own (haddr.trans hown), frameBytes_fn]
  · rw [filterFrame_foreign (haddr.trans_ne hforeign), State.skip_within hwithin]
  · rw [filterFrame_foreign (haddr.trans_ne hforeign), State.skip_past hmax hpast]

/-- Settles O34 (R166, R72, R107): the received checksum of a frame is compared with the one over all bytes before it. -/
theorem frameChecksumCheck : Obligations.FrameChecksumCheck := by
  unfold Obligations.FrameChecksumCheck
  intro i fn f s g p hi hop hseq
  rw [exec_held_chkCrc hi hop hseq, checkFrame, State.verify_frame]
  refine ⟨fun hright => ?_, fun hwrong => ?_⟩
  · simp only [hright, if_true, decide_true]
  · simp only [hwrong, if_false, decide_false, State.raise_eq]

/-- `LogResp` can clear the capture buffer of the read direction and does nothing else to the transport (R52). -/
theorem Transport.logResp_eq (t : Transport) : t.logResp = { t with capRx := t.logResp.capRx } := by
  unfold Transport.logResp
  split <;> rfl

/-- Settles O36 (R168, R169): `be16Bytes` puts the high byte of the message id first. -/
theorem functionMatchAndReturn : Obligations.FunctionMatchAndReturn := by
  unfold Obligations.FunctionMatchAndReturn
  intro i fn f s g p hi hop hseq
  rw [exec_held_chkFn hi hop hseq, matchFunction_frame]
  refine ⟨fun hsame => ⟨s.transport.logResp, s.transport.logResp_eq, ?_⟩, fun hother => ?_⟩
  · rw [if_pos hsame]
    rfl
  · rw [if_neg hother, State.raise_eq]

/-! ### The table of control transfers (R175) -/

/-- From `s` the operation in flight goes on at the step `q`, with no result. -/
def State.GoesTo (s : State) (q : Seq) (t : State) : Prop :=
  t.seq = q ∧ t.busy = true ∧ t.op = s.op ∧ t.answers = s.answers

/-- From `s` the operation in flight ends with the result `r`. -/
def State.EndsWith (s : State) (r : Result) (t : State) : Prop :=
  t.seq = .idle ∧ t.busy = false ∧ t.op = none ∧ t.done = true ∧ t.kind = r.kind ∧ t.answers = r :: s.answers

/-- From `s` the operation in flight ends because a transport primitive failed at the step `q`. -/
def State.FailsIo (s : State) (q : Seq) (t : State) : Prop :=
  s.EndsWith (.err (.timeout q)) t ∨ ∃ x, s.EndsWith (.err (.ioFail q x)) t

section Ends
variable {s u : State} (hkept : u.answers = s.answers)
include hkept

theorem State.endsWith_raise (e : Err) : s.EndsWith (.err e) (u.raise e) :=
  ⟨rfl, rfl, rfl, rfl, rfl, by rw [State.raise_answers, hkept]⟩

theorem State.endsWith_finish (v : Value) : s.EndsWith (.ok v) (u.finish v) :=
  ⟨rfl, rfl, rfl, rfl, rfl, by rw [State.finish_answers, hkept]⟩

theorem State.failsIo_raise (q : Seq) (e : IoErr) : s.FailsIo q (u.raise (e.raised q)) := by
  cases e with
  | timedOut => exact .inl (State.endsWith_raise hkept _)
  | failed x => exact .inr ⟨x, State.endsWith_raise hkept _⟩

end Ends

/-- The length check, on the header in the buffer (R162). -/
theorem State.checkLength_follows {s u : State} (hbusy : u.busy = true) (hop : u.op = s.op)
    (hkept : u.answers = s.answers) :
    (s.GoesTo .rxBody u.checkLength ∧ 11 ≤ (u.checkLength.rxbuf.read .rx 5).toNat) ∨
      ((u.checkLength.rxbuf.read .rx 5).toNat < 11 ∧
        s.EndsWith (.err (.invalidFrame (u.checkLength.rxbuf.read .rx 5))) u.checkLength) := by
  unfold State.checkLength
  by_cases hshort : (u.rxbuf.read .rx 5).toNat < Config.minRxFrame
  · simp only [if_pos hshort]
    exact .inr ⟨hshort, State.endsWith_raise hkept _⟩
  · simp only [if_neg hshort]
    exact .inl ⟨⟨rfl, hbusy, hop, hkept⟩, Nat.not_lt.1 hshort⟩

/-- A foreign frame: back to `RX_PREP` within the bound, `SKIP_LIMIT` past it (R165). -/
theorem State.skip_follows {s : State} (hbusy : s.busy = true) :
    (s.GoesTo .rxPrep s.skip ∧ ∀ m, s.params.maxSkips = some m → s.skip.skips ≤ m) ∨
      ((∃ m, s.params.maxSkips = some m ∧ m < s.skip.skips) ∧ s.EndsWith (.err (.skipLimit s.skip.skips)) s.skip) := by
  obtain ⟨hskip, hwithin⟩ | ⟨hskip, hpast⟩ := s.skip_cases <;> rw [hskip]
  · exact .inl ⟨⟨rfl, hbusy, rfl, rfl⟩, overLimit_false_iff.1 hwithin⟩
  · exact .inr ⟨overLimit_iff.1 hpast, State.endsWith_raise rfl _⟩

/-- The address filter (R164, R165). -/
theorem filterFrame_follows {s : State} (f : List Byte) (hbusy : s.busy = true) :
    if be32At f 0 = s.addr then s.GoesTo .chkCrc (filterFrame f s)
    else (s.GoesTo .rxPrep (filterFrame f s) ∧ ∀ m, s.params.maxSkips = some m → (filterFrame f s).skips ≤ m) ∨
      ((∃ m, s.params.maxSkips = some m ∧ m < (filterFrame f s).skips) ∧
        s.EndsWith (.err (.skipLimit (filterFrame f s).skips)) (filterFrame f s)) := by
  by_cases hown : be32At f 0 = s.addr
  · rw [if_pos hown, filterFrame_own hown]
    exact ⟨rfl, hbusy, rfl, rfl⟩
  · rw [if_neg hown, filterFrame_foreign hown]
    exact State.skip_follows hbusy

/-- The checksum check on a whole frame (R166). -/
theorem checkFrame_follows {s : State} {f : List Byte} (hbusy : s.busy = true) (hlen : 2 ≤ f.length) :
    (s.GoesTo .chkErr (checkFrame f s) ∧ (checkFrame f s).calccrc = (checkFrame f s).recvcrc) ∨
      ((checkFrame f s).calccrc ≠ (checkFrame f s).recvcrc ∧
        s.EndsWith (.err (.checksum (checkFrame f s).calccrc (checkFrame f s).recvcrc)) (checkFrame f s)) := by
  rw [checkFrame, State.verify_eq hlen]
  by_cases hright : crc16 (f.take (f.length - 2)) = le16At f (f.length - 2)
  · simp only [if_pos hright]
    exact .inl ⟨⟨rfl, hbusy, rfl, rfl⟩, hright⟩
  · simp only [if_neg hright]
    exact .inr ⟨hright, State.endsWith_raise rfl _⟩

/-- The error test (R167): the code is the byte behind the header. -/
theorem errorTest_follows {s : State} (f : List Byte) (hbusy : s.busy = true) :
    if byteAt f 4 = 0x00#8 then
      (errorTest f s).errcode = byteAt f 6 ∧
        s.EndsWith (.err (.deviceError (errorTest f s).errcode (errName s.params (errorTest f s).errcode)))
          (errorTest f s)
    else s.GoesTo .chkFn (errorTest f s) := by
  unfold errorTest
  by_cases herror : byteAt f 4 = 0x00#8
  · simp only [if_pos herror]
    exact ⟨rfl, State.endsWith_raise rfl _⟩
  · simp only [if_neg herror]
    exact ⟨rfl, hbusy, rfl, rfl⟩

/-- The function match (R168), and the return of the bytes between header and checksum (R169). -/
theorem matchFunction_follows {s : State} {f : List Byte} (hmin : 11 ≤ f.length) (hmax : f.length < 256) :
    if byteAt f 4 = s.reqfn then
      ∃ body : List Byte, s.EndsWith (.ok (.bytes body)) (matchFunction f s) ∧
        body.length = (matchFunction f s).bodylen.toNat ∧ 3 ≤ body.length
    else s.EndsWith (.err (.protoMismatch s.reqfn (byteAt f 4))) (matchFunction f s) := by
  have hlen : ((f.drop 6).take (f.length - 8)).length = f.length - 8 := by
    rw [List.length_take, List.length_drop]
    omega
  unfold matchFunction
  by_cases hsame : byteAt f 4 = s.reqfn
  · simp only [if_pos hsame]
    refine ⟨_, State.endsWith_finish rfl _, ?_, by omega⟩
    rw [hlen, State.finish_bodylen, State.logResp_bodylen, BitVec.toNat_ofNat]
    omega
  · simp only [if_neg hsame]
    exact State.endsWith_raise rfl _

/-- Settles O39 (R175): the two rows of `IDLE` by the issue checks, the others by `Row`, each of whose outcomes is in the
row of the table for its step. -/
theorem sequencerTransitions : Obligations.SequencerTransitions := by
  unfold Obligations.SequencerTransitions
  refine ⟨fun s fn p hinv hidle => ?_, fun s fn p hinv hland hop => ?_⟩
  · have hfree : s.busy = false := Bool.eq_false_iff.2 fun hbusy => hinv.busy.1 hbusy hidle
    refine ⟨_, exec_execute_free fn p hfree, fun ⟨hbound, b, hp, hfits⟩ => ?_, fun hrefused => ?_⟩
    · rw [hp, State.issueExecute_accepted fn hbound hfits]
      exact ⟨rfl, rfl, rfl⟩
    · obtain ⟨e, he⟩ := State.issueExecute_refused fn hrefused
      rw [he]
      exact ⟨rfl, rfl, e, rfl, rfl⟩
  have hrem : s.seq = .rxBody → s.rem.toNat ≤ 249 := fun hq => by
    obtain ⟨-, -, hle, -⟩ := hinv.header hq
    exact hle
  obtain ⟨t, hstep, hrow⟩ := step_row hland hinv.params hinv.step hinv.payload hrem
  have hframe := fun h => hinv.frame ((State.holdsFrame_iff s).2 ⟨⟨fn, p, hop⟩, h⟩)
  have hactive : s.seq ≠ .idle := fun hq => by
    have hown := hinv.step
    simp [State.atOwnStep, hop, hq] at hown
  have hbusy : s.busy = true := hinv.busy.2 hactive
  refine ⟨t, hstep, ?_⟩
  cases hrow with
  | idle hq => exact absurd hq hactive
  | build _ _ hq | txPrep hq | rxPrep hq => rw [hq]; exact ⟨rfl, hbusy, rfl, rfl⟩
  | txWrite _ hq | txFlush _ hq | remainder _ _ _ _ _ hq => rw [hq]; exact .inl ⟨rfl, hbusy, rfl, rfl⟩
  | txWriteFails _ e hq | txFlushFails _ e hq => rw [hq]; exact .inr (State.failsIo_raise (s := s) rfl _ e)
  | readFails n u e hn =>
    rcases State.readSize_seq hn with hq | hq <;> rw [hq]
    · exact .inr (.inr (State.failsIo_raise (s := s) rfl _ e))
    · exact .inr (State.failsIo_raise (s := s) rfl _ e)
  | header _ _ b u _ hq =>
    rw [hq]
    exact (State.checkLength_follows (u := (s.afterRead 6 u).withReceived 0 b) hbusy rfl rfl).imp_right .inl
  | filter _ _ _ hq => rw [hq]; exact filterFrame_follows (s := s.ticked) s.rxBytes hbusy
  | check _ _ _ hq =>
    obtain ⟨hlen, -⟩ := hframe (.inr (.inl hq))
    rw [hq]
    exact checkFrame_follows (s := s.ticked) hbusy (by rw [State.rxBytes_length]; omega)
  | error _ _ _ hq =>
    obtain ⟨hlen, -⟩ := hframe (.inr (.inr (.inl hq)))
    have hfollows := errorTest_follows (s := s.ticked) s.rxBytes hbusy
    rw [State.rxBytes_byteAt (by omega), State.rxBytes_byteAt (by omega)] at hfollows
    rw [hq]
    exact hfollows
  | function _ _ _ hq =>
    obtain ⟨hlen, -⟩ := hframe (.inr (.inr (.inr hq)))
    have hfollows := matchFunction_follows (s := s.ticked) (f := s.rxBytes) (by simpa using hlen)
      (by rw [State.rxBytes_length]; exact s.rxlen.isLt)
    rw [State.rxBytes_byteAt (by omega)] at hfollows
    rw [hq]
    exact hfollows
  | buildDiscover _ ho | discovered _ _ ho | modelled _ _ ho | modelFilter ho | modelCheck ho | discoverCheck ho =>
    exact absurd (hop.symm.trans ho) (by simp)

end Sys2Proof.Machine
end

section
/-! Proofs of the reset and hazard family (70_reset_and_hazards.md). -/

namespace Sys2Proof.Machine

/-- Every host operation tests `BUSY` before all else (R270); a frame is no host operation. -/
theorem exec_host_eq_unlessBusy {i : Instr} (hhost : i.isHost = true) (s : State) : ∃ t, exec i s = unlessBusy s t := by
  cases i with
  | fnError | fnReadCurrent | fnWriteCurrent | fnReadTime | fnWriteTime | fnReadArchive | fnReadPulseWeight
  | fnWritePulseWeight | fnLineTest | fnReadSettings | fnWriteSettings | fnInputTest => cases hhost
  | _ => exact ⟨_, rfl⟩

theorem exec_host_busy {i : Instr} {s : State} (hhost : i.isHost = true) (hbusy : s.busy = true) :
    exec i s = .next { s with answers := .err .busyRefused :: s.answers } := by
  obtain ⟨t, ht⟩ := exec_host_eq_unlessBusy hhost s
  exact ht.trans (unlessBusy_busy t hbusy)

/-- A command that lands on a busy unit is refused, whether its code decodes to a host operation or is reserved. -/
theorem step_cmd_busy {s : State} {c : CmdWrite} (hbusy : s.busy = true) (hl : s.landing = some (.cmd c)) :
    step s = .next { s with inputs := s.inputs.tail, answers := .err .busyRefused :: s.answers } := by
  cases hd : decodeCmd c with
  | ok i => exact (step_cmd hl hd).trans (exec_host_busy (decodeCmd_isHost hd) hbusy)
  | error e => exact step_reserved_busy hl hd hbusy

/-- Settles O26 (R270): `BUSY` is tested first by every host operation and for every reserved code. -/
theorem busyRefusesEveryCommand : Obligations.BusyRefusesEveryCommand := by
  unfold Obligations.BusyRefusesEveryCommand
  exact ⟨fun _ _ => exec_host_busy, fun _ _ => step_cmd_busy⟩

end Sys2Proof.Machine
end

section
/-! Proofs of the whole-machine family: the encoder and the decoder (30_encoding.md). -/

namespace Sys2Proof.Machine

/-- The bytes of a well-formed frame go to the function-code map with their own fields (R70, R71). -/
theorem decodeFrame_frameBytes {f : FrameFields} (hf : f.wellFormed = true) (fn : Byte) :
    decodeFrame (frameBytes fn f) = decodeFn fn f := by
  have hlen : f.len.toNat = 10 + f.payload.length := of_decide_eq_true hf
  have hlong : ¬ (frameBytes fn f).length < Config.overhead := by
    rw [frameBytes_length]
    exact Nat.not_lt.2 (Nat.le_add_right 10 _)
  have hcount : ¬ (byteAt (frameBytes fn f) 5).toNat ≠ (frameBytes fn f).length := by
    rw [frameBytes_len, frameBytes_length, hlen]
    exact not_not_intro rfl
  rw [decodeFrame, if_neg hlong, if_neg hcount, frameBytes_fn, frameFields_frameBytes]

/-- A command without `k` decodes by its row of R85. -/
theorem decode_cmdOf_tx (op : BitVec 5) {a : Operands} {i : Instr}
    (hrow : decodeOp op.toNat ⟨codeOf op .tx, a⟩ = withoutEngine (codeOf op .tx) i) :
    decode (cmdOf op .tx a) = .ok i := decodeCmd_of_row op hrow

theorem decodeCmd_crcUpd (k : Engine) (a : Operands) : decodeCmd ⟨codeOf 0x03#5 k, a⟩ = .ok (.crcUpd k a.bytes) := by
  simp [decodeCmd_codeOf, decodeOp, engineOf_codeOf]

/-- The operands of an `EXEC` give its payload back, built or not (R156). -/
theorem payloadOf_executeArgs (fn : Byte) (p : Payload) : payloadOf (executeArgs fn p) = p := by
  cases p <;> rfl

theorem executeArgs_byte (fn : Byte) (p : Payload) : (executeArgs fn p).byte = fn := by
  cases p <;> rfl

theorem decodeCmd_executeArgs (fn : Byte) (p : Payload) :
    decodeCmd ⟨0x13#8, executeArgs fn p⟩ = .ok (.execute fn p) := by
  rw [decodeCmd_execute, payloadOf_executeArgs, executeArgs_byte]

/-- Settles O57 (R70, R80, R84, R85): a command by its row of R85, a frame by reading its own fields back. -/
theorem decodeEncodeAgree : Obligations.DecodeEncodeAgree := by
  unfold Obligations.DecodeEncodeAgree
  intro i hwf
  cases i with
  | crcReset k => exact decodeCmd_crcReset k _
  | crcUpdb k b => exact decodeCmd_crcUpdb k _
  | crcUpd k s => exact decodeCmd_crcUpd k _
  | crcSum k s => exact decodeCmd_crcSum k _
  | crcGet k => exact decodeCmd_crcGet k _
  | crcAppend s => exact decode_cmdOf_tx 0x06#5 rfl
  | crcVerify f => exact decode_cmdOf_tx 0x07#5 rfl
  | tsPack t => exact decode_cmdOf_tx 0x08#5 rfl
  | tsUnpack s => exact decode_cmdOf_tx 0x09#5 rfl
  | arcUnpack s => exact decode_cmdOf_tx 0x0A#5 rfl
  | envEncode addr fn payload id => exact decode_cmdOf_tx 0x0B#5 rfl
  | chmEncode channels => exact decode_cmdOf_tx 0x0C#5 rfl
  | chmDecode m => exact decode_cmdOf_tx 0x0D#5 rfl
  | prmWpack code value => exact decode_cmdOf_tx 0x0E#5 rfl
  | errDecode c => exact decode_cmdOf_tx 0x0F#5 rfl
  | bind addr => exact decode_cmdOf_tx 0x10#5 rfl
  | rebind => exact decode_cmdOf_tx 0x11#5 rfl
  | midNext => exact decode_cmdOf_tx 0x12#5 rfl
  | execute fn payload => exact decodeCmd_executeArgs fn payload
  | discover => exact decode_cmdOf_tx 0x14#5 rfl
  | model => exact decode_cmdOf_tx 0x15#5 rfl
  | fnError | fnReadCurrent | fnWriteCurrent | fnReadTime | fnWriteTime | fnReadArchive | fnReadPulseWeight
  | fnWritePulseWeight | fnLineTest | fnReadSettings | fnWriteSettings | fnInputTest =>
    exact (decodeFrame_frameBytes hwf _).trans rfl

/-- What the function-code map answers is the frame instruction with that code and those fields (R80). -/
theorem decodeFn_frameOf {fn : Byte} {f : FrameFields} {i : Instr} (h : decodeFn fn f = .ok i) :
    i.frameOf = some (fn, f) := by
  have hcode : ∀ n, fn.toNat = n → fn = BitVec.ofNat 8 n := by
    rintro n rfl
    rw [BitVec.ofNat_toNat, BitVec.setWidth_eq]
  unfold decodeFn at h
  split at h
  case h_13 => cases h
  all_goals
    injection h with h
    subst h
    rw [hcode _ ‹_›]
    rfl

/-- A frame instruction is encoded by its bytes, and is well formed when its length byte counts them (R71). -/
theorem encode_of_frameOf {i : Instr} {fn : Byte} {f : FrameFields} (h : i.frameOf = some (fn, f)) :
    encode i = .frame (frameBytes fn f) ∧ i.wellFormed = f.wellFormed := by
  cases i <;> cases h <;> exact ⟨rfl, rfl⟩

theorem decodeFrame_short {b : List Byte} (h : b.length < 10) : decodeFrame b = .error (.shortFrame b.length) := if_pos h

theorem decodeFrame_miscounted {b : List Byte} (hlong : 10 ≤ b.length) (h : (byteAt b 5).toNat ≠ b.length) :
    decodeFrame b = .error (.lengthByte (byteAt b 5) b.length) := by
  rw [decodeFrame, if_neg (Nat.not_lt.2 hlong), if_pos h]

theorem decodeFrame_counted {b : List Byte} (hlong : 10 ≤ b.length) (h : (byteAt b 5).toNat = b.length) :
    decodeFrame b = decodeFn (byteAt b 4) (frameFields b) := by
  rw [decodeFrame, if_neg (Nat.not_lt.2 hlong), if_neg (not_not_intro h)]

/-- The decoder refuses what is no frame and what its length byte does not count (R71). -/
theorem decodeFrame_ne_ok {b : List Byte} (h : b.length < 10 ∨ (byteAt b 5).toNat ≠ b.length) (i : Instr) :
    decodeFrame b ≠ .ok i := by
  by_cases hshort : b.length < 10
  · simp [decodeFrame_short hshort]
  · simp [decodeFrame_miscounted (Nat.not_lt.1 hshort) (h.resolve_left hshort)]

/-- Words that decode to a frame instruction are whole frames, counted by their length byte. -/
theorem decodeFrame_ok {b : List Byte} {i : Instr} (h : decodeFrame b = .ok i) :
    10 ≤ b.length ∧ (byteAt b 5).toNat = b.length ∧ i.frameOf = some (byteAt b 4, frameFields b) := by
  have hlong : 10 ≤ b.length := Nat.not_lt.1 fun hs => decodeFrame_ne_ok (.inl hs) i h
  have hcount : (byteAt b 5).toNat = b.length := not_not.1 fun hc => decodeFrame_ne_ok (.inr hc) i h
  exact ⟨hlong, hcount, decodeFn_frameOf ((decodeFrame_counted hlong hcount).symm.trans h)⟩

/-- The assigned function codes are those of R80. -/
theorem decodeFn_ok_iff (fn : Byte) (f : FrameFields) : (∃ i, decodeFn fn f = .ok i) ↔
    fn.toNat ∈ [0x00, 0x01, 0x03, 0x04, 0x05, 0x06, 0x07, 0x08, 0x09, 0x0A, 0x0B, 0x19] := by
  unfold decodeFn
  split <;> simp_all

/-- Settles O58 (R70, R71, R80): the fields of the bytes are those of the instruction, and a frame of 10 bytes or more is
the frame of its own fields. -/
theorem frameDecodeIsExact : Obligations.FrameDecodeIsExact := by
  unfold Obligations.FrameDecodeIsExact
  refine ⟨fun b i h => ?_, fun b h i => decodeFrame_ne_ok h i, fun b hlong hcount => ?_⟩
  · obtain ⟨hlong, hcount, hframe⟩ := decodeFrame_ok h
    obtain ⟨hencode, hwf⟩ := encode_of_frameOf hframe
    have hpayload : (frameFields b).payload.length = b.length - 10 := by
      simp only [frameFields, List.length_take, List.length_drop]
      omega
    refine ⟨by rw [hencode, frameBytes_frameFields hlong], hwf.trans (decide_eq_true ?_)⟩
    show (byteAt b 5).toNat = 10 + (frameFields b).payload.length
    omega
  · rw [decodeFrame_counted hlong hcount, decodeFn_ok_iff]

/-- Settles O59: words of each family, written out (R84, R85, R70, R80). -/
theorem wordsWrittenOut : Obligations.WordsWrittenOut := by
  unfold Obligations.WordsWrittenOut
  decide

end Sys2Proof.Machine
end

section
/-! Proofs of the whole-machine family: what a step can do, and the invariant (10_state.md, 60_exceptions.md). -/

namespace Sys2Proof.Machine

/-! ### What a command that lands can do (R27, R84 to R86, R270) -/

/-- `t` differs from `s` at most in the receive engine's registers, the transmit value and the transport: what a command
that is no binding, no allocation and no issue may write besides its result (R27). -/
def State.KeepsControl (s t : State) : Prop :=
  t = { s with
    crcTx := t.crcTx, crcRx := t.crcRx, calccrc := t.calccrc, recvcrc := t.recvcrc, crcOk := t.crcOk
    transport := t.transport, links := t.links }

/-- The outcomes, from `s`, of a command that decodes to `d`. -/
inductive Served (d : Except DecodeError Instr) (s : State) : State → Prop
  | refused : s.busy = true → Served d s s.refuseBusy
  | returned (u : State) (v : Value) : s.busy = false → s.KeepsControl u → Served d s (u.ret v)
  | failed (u : State) (e : Err) : s.busy = false → s.KeepsControl u → Served d s (u.raise e)
  | bound (a : Word) : s.busy = false → d = .ok (.bind a) →
      Served d s (({ s with addr := a, addrV := true, mid := Config.midReset } : State).ret .none)
  | allocated : s.busy = false → d = .ok .midNext →
      Served d s (({ s with mid := nextMid s.mid } : State).ret (.half (nextMid s.mid)))
  | accepted (o : SeqOp) : s.busy = false → (o ≠ .discover → s.addrV = true) →
      (∀ fn p, o = .execute fn p → p.length ≤ 245) → Served d s (s.accept o)

theorem State.KeepsControl.setCrc (s : State) (k : Engine) (v : Half) : s.KeepsControl (s.setCrc k v) := by
  cases k <;> rfl

theorem State.KeepsControl.verify (s : State) (f : List Byte) : s.KeepsControl (s.verify f).1 := by
  unfold State.verify
  split <;> rfl

theorem State.KeepsControl.reconnect (s : State) : s.KeepsControl s.reconnect := by
  unfold State.reconnect
  split <;> rfl

section Served
variable {d : Except DecodeError Instr} {s : State}

/-- A command tests `BUSY` first, so its outcome is that of the free unit (R270). -/
theorem Served.of_free {t : State} (h : s.busy = false → Served d s t) :
    ∃ u, unlessBusy s t = .next u ∧ Served d s u := by
  cases hb : s.busy with
  | false => exact ⟨t, unlessBusy_free t hb, h hb⟩
  | true => exact ⟨s.refuseBusy, unlessBusy_busy t hb, .refused hb⟩

theorem Served.of_ret {u : State} (v : Value) (hu : s.KeepsControl u) :
    ∃ t, unlessBusy s (u.ret v) = .next t ∧ Served d s t := Served.of_free fun hb => .returned u v hb hu

theorem Served.of_conclude (r : Except Err Value) : ∃ t, unlessBusy s (s.conclude r) = .next t ∧ Served d s t := by
  refine Served.of_free fun hb => ?_
  cases r with
  | ok v => exact .returned s v hb rfl
  | error e => exact .failed s e hb rfl

/-- The issue checks of `EXEC`: accepted with a bound address and a payload that fits, or refused (R156). -/
theorem Served.of_issueExecute (hb : s.busy = false) (fn : Byte) (p : Payload) : Served d s (s.issueExecute fn p) := by
  by_cases h : s.addrV = true ∧ ∃ b, p = .built b ∧ b.length ≤ 245
  · obtain ⟨hbound, b, rfl, hfits⟩ := h
    rw [State.issueExecute_accepted fn hbound hfits]
    refine .accepted _ hb (fun _ => hbound) fun fn' p' ho => ?_
    cases ho
    exact hfits
  · obtain ⟨e, he⟩ := State.issueExecute_refused fn h
    rw [he]
    exact .failed s e hb rfl

theorem Served.of_issueModel (hb : s.busy = false) :
    Served d s (if s.addrV = false then s.raise .notBound else s.accept .model) := by
  cases hbound : s.addrV with
  | false => exact .failed s _ hb rfl
  | true => exact .accepted .model hb (fun _ => hbound) fun _ _ ho => by cases ho

end Served

/-- Everything a host operation can do. -/
theorem exec_served {i : Instr} (hhost : i.isHost = true) (s : State) :
    ∃ t, exec i s = .next t ∧ Served (.ok i) s t := by
  cases i with
  | crcReset k => exact Served.of_ret _ (.setCrc s k _)
  | crcUpdb k b => exact Served.of_ret _ (.setCrc s k _)
  | crcUpd k b => exact Served.of_ret _ (.setCrc s k _)
  | crcSum k b => exact Served.of_ret _ (.setCrc s k _)
  | crcGet k => exact Served.of_ret (u := s) _ rfl
  | crcAppend b => exact Served.of_ret _ (.setCrc s .tx _)
  | crcVerify f =>
    refine Served.of_free fun hb => ?_
    have hkeeps := State.KeepsControl.verify s f
    generalize s.verify f = v at hkeeps
    obtain ⟨t, _ | e⟩ := v
    · exact .returned t .none hb hkeeps
    · exact .failed t e hb hkeeps
  | tsPack | tsUnpack | arcUnpack | envEncode | chmEncode | prmWpack => exact Served.of_conclude _
  | chmDecode m => exact Served.of_ret (u := s) _ rfl
  | errDecode c => exact Served.of_ret (u := s) _ rfl
  | bind a => exact Served.of_free fun hb => .bound a hb rfl
  | rebind => exact Served.of_ret _ (.reconnect s)
  | midNext => exact Served.of_free fun hb => .allocated hb rfl
  | execute fn p => exact Served.of_free fun hb => .of_issueExecute hb fn p
  | discover =>
    exact Served.of_free fun hb => .accepted .discover hb (fun h => absurd rfl h) fun _ _ ho => by cases ho
  | model => exact Served.of_free Served.of_issueModel
  | fnError | fnReadCurrent | fnWriteCurrent | fnReadTime | fnWriteTime | fnReadArchive | fnReadPulseWeight
  | fnWritePulseWeight | fnLineTest | fnReadSettings | fnWriteSettings | fnInputTest => cases hhost

/-- Everything a step can do on which a command lands, reserved or not. -/
theorem step_served {s : State} {c : CmdWrite} (hl : s.landing = some (.cmd c)) :
    ∃ t, step s = .next t ∧ Served (decodeCmd c) { s with inputs := s.inputs.tail } t := by
  cases hd : decodeCmd c with
  | ok i =>
    rw [step_cmd hl hd]
    exact exec_served (decodeCmd_isHost hd) _
  | error e =>
    rw [step_reserved hl hd]
    exact Served.of_free fun hb => .failed _ _ hb rfl

/-! ### What any step can do -/

/-- A step of the unit that meets the invariant has one of the outcomes of its row. -/
theorem row_of_inv {s : State} (h : s.Inv) (hl : s.landing = none) : ∃ t, step s = .next t ∧ Row s t :=
  step_row hl h.params h.step h.payload fun hq => by
    obtain ⟨-, -, hrem, -⟩ := h.header hq
    exact hrem

/-- The outcomes of a step: a command of the host, a hardware reset, or a row of the unit. -/
inductive Stepped (s t : State) : Prop
  | command (c : CmdWrite) : s.landing = some (.cmd c) →
      Served (decodeCmd c) { s with inputs := s.inputs.tail } t → Stepped s t
  | reset (cut : Option Cut) : s.landing = some (.reset cut) →
      t = (({ s with inputs := s.inputs.tail } : State).cutOff cut).hardReset → Stepped s t
  | unit : s.landing = none → Row s t → Stepped s t

theorem stepped_of_inv {s : State} (h : s.Inv) : ∃ t, step s = .next t ∧ Stepped s t := by
  cases hl : s.landing with
  | none =>
    obtain ⟨t, ht, hrow⟩ := row_of_inv h hl
    exact ⟨t, ht, .unit hl hrow⟩
  | some a =>
    cases a with
    | cmd c =>
      obtain ⟨t, ht, hserved⟩ := step_served hl
      exact ⟨t, ht, .command c hl hserved⟩
    | reset cut => exact ⟨_, step_reset hl, .reset cut hl rfl⟩

theorem stepped_of_step {s t : State} (h : s.Inv) (ht : step s = .next t) : Stepped s t := by
  obtain ⟨u, hu, hstepped⟩ := stepped_of_inv h
  rw [ht] at hu
  cases hu
  exact hstepped

theorem row_of_step {s t : State} (h : s.Inv) (hl : s.landing = none) (ht : step s = .next t) : Row s t := by
  obtain ⟨u, hu, hrow⟩ := row_of_inv h hl
  rw [ht] at hu
  cases hu
  exact hrow

/-- Settles O48 (R230): every outcome of a step is a next state. -/
theorem unitNeverStops : Obligations.UnitNeverStops := by
  unfold Obligations.UnitNeverStops
  intro s hinv
  obtain ⟨t, ht, -⟩ := stepped_of_inv hinv
  exact ⟨t, ht⟩

/-! ### The invariant -/

theorem State.sameFrame_rfl (s : State) : s.SameFrame s := ⟨rfl, rfl, rfl, rfl, rfl, rfl, rfl, rfl⟩

theorem State.KeepsControl.sameFrame {s t : State} (h : s.KeepsControl t) : s.SameFrame t := by
  unfold State.KeepsControl at h
  rw [h]
  exact s.sameFrame_rfl

/-- An operation that the unit refuses at once keeps the invariant. -/
theorem State.Inv.fail {s t : State} (h : s.Inv) (hkeep : s.SameFrame t) (e : Err) : (t.raise e).Inv := by
  obtain ⟨e1, e2, e3, e4, e5, -⟩ := hkeep
  refine State.Base.raise ⟨e1 ▸ h.params, e2 ▸ h.txbuf, e3 ▸ h.rxbuf, ?_, ?_⟩ e
  · rw [e2, e4]; exact h.txValid
  · rw [e3, e5]; exact h.rxValid

/-- A command keeps the invariant and the parameters. -/
theorem Served.keeps {d : Except DecodeError Instr} {s t : State} (h : Served d s t) (hinv : s.Inv) :
    t.Inv ∧ t.params = s.params := by
  cases h with
  | refused =>
    exact ⟨⟨hinv.params, hinv.txbuf, hinv.rxbuf, hinv.busy, hinv.step, hinv.bound, hinv.payload, hinv.reqfn,
      hinv.txValid, hinv.rxValid, hinv.header, hinv.frame, hinv.discovered, hinv.modelled, hinv.idx, hinv.noError,
      hinv.skips⟩, rfl⟩
  | returned u v hb hkeep => exact ⟨hinv.ret hb hkeep.sameFrame v, hkeep.sameFrame.1⟩
  | failed u e hb hkeep => exact ⟨hinv.fail hkeep.sameFrame e, hkeep.sameFrame.1⟩
  | bound a hb => exact ⟨hinv.ret (t := { s with addr := a, addrV := true, mid := Config.midReset }) hb s.sameFrame_rfl _, rfl⟩
  | allocated hb => exact ⟨hinv.ret (t := { s with mid := nextMid s.mid }) hb s.sameFrame_rfl _, rfl⟩
  | accepted o _ hbound hfits => exact ⟨hinv.accept o hbound hfits, rfl⟩

/-- Hardware reset meets the invariant whatever the unit was doing. -/
theorem State.hardReset_inv {s : State} (h : s.params.ok = true) : s.hardReset.Inv :=
  State.Base.idle ⟨h, ⟨.nil, fun _ hc => absurd hc List.not_mem_nil⟩, ⟨.nil, fun _ hc => absurd hc List.not_mem_nil⟩,
    fun _ hi => absurd hi (Nat.not_lt_zero _), fun _ hi => absurd hi (Nat.not_lt_zero _)⟩ rfl rfl rfl

theorem State.cutOff_params (s : State) (cut : Option Cut) : (s.cutOff cut).params = s.params := by
  obtain ⟨u, new, h, -⟩ := s.cutOff_shape cut
  rw [h]

/-- Every row keeps the invariant. -/
theorem Row.keeps_inv {s t : State} (h : Row s t) (hinv : s.Inv) : t.Inv := by
  cases h with
  | idle => exact hinv.ticked
  | build fn p hq hfits ho => exact hinv.build hq hfits ho _ _
  | buildDiscover hq ho => exact hinv.buildDiscover hq ho
  | txPrep hq => exact hinv.txPrep hq
  | txWrite u hq => exact hinv.txWrite hq u
  | txWriteFails u e => exact hinv.ioFails _ u _
  | txFlush u hq => exact hinv.txFlush hq u
  | txFlushFails u e => exact hinv.ioFails _ u _
  | rxPrep hq => exact hinv.rxPrep hq
  | readFails n u e => exact hinv.ioFails _ u _
  | header fn p b u ho hq hb => exact hinv.rxHdr ho hq hb u
  | remainder fn p b u ho hq hb => exact hinv.rxBody ho hq hb u
  | discovered b u ho hq hb => exact hinv.discovery ho hq hb u
  | modelled b u ho hq hb => exact hinv.modelResponse ho hq hb u
  | filter fn p ho hq => exact hinv.ticked.filter ho hq _
  | check fn p ho hq => exact hinv.ticked.check ho hq _
  | error fn p ho hq => exact hinv.ticked.errorTest ho hq
  | function => exact hinv.ticked.matchFunction _
  | modelFilter ho hq => exact hinv.ticked.filterModel ho hq _
  | modelCheck => exact hinv.ticked.checkModel _
  | discoverCheck => exact hinv.ticked.checkDiscover _

/-- Settles O46 (R28, R79): at reset nothing is in flight and the buffers are empty. -/
theorem invariantAtReset : Obligations.InvariantAtReset := by
  unfold Obligations.InvariantAtReset
  exact State.hardReset_inv (s := State.reset) Config.params_ok

end Sys2Proof.Machine
end

section
/-! Proofs of the whole-machine family: what a row of the unit can do to the registers and the transcripts, and the rules
about every step that follow from it (10_state.md, 20_memory.md, 60_exceptions.md). -/

namespace Sys2Proof.Machine

/-! ### The outcomes of a row -/

/-- What a row that does not end an operation leaves alone, with the calls `new` it makes on the transport: only `BUILD`
moves the message id (R12). -/
structure State.Kept (s u : State) (new : List TifCall) : Prop where
  addr : u.addr = s.addr
  addrV : u.addrV = s.addrV
  busy : u.busy = s.busy
  op : u.op = s.op
  params : u.params = s.params
  answers : u.answers = s.answers
  calls : u.calls = new ++ s.calls
  mid : u.mid = s.mid ∨ u.mid = nextMid s.mid ∧ s.seq = .build ∧
    ((∃ fn p, s.op = some (.execute fn p)) ∨ s.op = some .model)

/-- The calls of a row besides the log events: what sends stands in front of the flush, what reads behind it (R55). -/
inductive RowCalls (s : State) : List TifCall → Prop
  | none : RowCalls s []
  | prepWrite : s.seq.receiving = false → RowCalls s [.prepWrite]
  | txWrite (b : List Byte) : s.seq.receiving = false → RowCalls s [.txWrite b]
  | txFlush : s.seq.receiving = false → RowCalls s [.txFlush]
  | prepRead : s.seq.receiving = true → RowCalls s [.prepRead]
  | rxRead (n : Nat) : s.seq.receiving = true → RowCalls s [.rxRead n]

/-- The outcomes of a row: the operation goes on, or it ends with an error, with a value, or by binding an address. -/
inductive Outcome (s : State) : State → Prop
  | goes {u : State} {new : List TifCall} : s.Kept u new → RowCalls s new → u.seq.receiving = s.seq.receiving →
      Outcome s u
  | flushed {u : State} : s.seq = .txFlush → s.Kept u [.logReq, .txFlush] → u.seq = .rxPrep → Outcome s u
  | fails {u : State} {new : List TifCall} (e : Err) : s.seq ≠ .idle → s.Kept u new → RowCalls s new →
      Outcome s (u.raise e)
  | returns {u : State} (v : Value) : s.seq ≠ .idle → s.Kept u [] → Outcome s (u.logResp.finish v)
  | binds {u : State} (a : Word) : s.seq ≠ .idle → s.op = some .discover → s.Kept u [] → Outcome s (u.endDiscover a)

/-- Nothing that `State.Kept` speaks of is written between `u` and `t`. -/
theorem State.Kept.congr {s u t : State} {new : List TifCall} (h : s.Kept u new)
    (same : t.addr = u.addr ∧ t.addrV = u.addrV ∧ t.busy = u.busy ∧ t.op = u.op ∧ t.params = u.params ∧
      t.answers = u.answers ∧ t.calls = u.calls ∧ t.mid = u.mid := by
        exact ⟨rfl, rfl, rfl, rfl, rfl, rfl, rfl, rfl⟩) : s.Kept t new := by
  obtain ⟨e1, e2, e3, e4, e5, e6, e7, e8⟩ := same
  exact ⟨e1.trans h.addr, e2.trans h.addrV, e3.trans h.busy, e4.trans h.op, e5.trans h.params, e6.trans h.answers,
    e7.trans h.calls, by rw [e8]; exact h.mid⟩

/-- A row that makes the calls `new` and writes nothing that `State.Kept` speaks of. -/
theorem State.Kept.of_row {s t : State} {new : List TifCall}
    (same : t.addr = s.addr ∧ t.addrV = s.addrV ∧ t.busy = s.busy ∧ t.op = s.op ∧ t.params = s.params ∧
      t.answers = s.answers ∧ t.calls = new ++ s.calls ∧ t.mid = s.mid := by
        exact ⟨rfl, rfl, rfl, rfl, rfl, rfl, rfl, rfl⟩) : s.Kept t new := by
  obtain ⟨e1, e2, e3, e4, e5, e6, e7, e8⟩ := same
  exact ⟨e1, e2, e3, e4, e5, e6, e7, .inl e8⟩

theorem State.Kept.verify {s u : State} (h : s.Kept u []) (f : List Byte) : s.Kept (u.verify f).1 [] := by
  rw [u.verify_same f]
  exact h.congr

theorem Seq.ne_idle_of_receiving {q : Seq} (h : q.receiving = true) : q ≠ .idle := by
  rintro rfl
  cases h

/-- The length check behind a header that was read (R162). -/
theorem State.checkLength_outcome {s u : State} {new : List TifCall} (hkept : s.Kept u new) (hcalls : RowCalls s new)
    (hseq : s.seq.receiving = true) : Outcome s u.checkLength := by
  simp only [State.checkLength]
  split
  · exact .fails _ (Seq.ne_idle_of_receiving hseq) hkept.congr hcalls
  · exact .goes hkept.congr hcalls hseq.symm

section InHand
variable {s u : State} (hkept : s.Kept u []) (hseq : s.seq.receiving = true)
include hkept hseq

theorem State.skip_outcome : Outcome s u.skip := by
  obtain ⟨h, -⟩ | ⟨h, -⟩ := u.skip_cases <;> rw [h]
  · exact .goes hkept.congr .none hseq.symm
  · exact .fails _ (Seq.ne_idle_of_receiving hseq) hkept.congr .none

theorem filterFrame_outcome (f : List Byte) : Outcome s (filterFrame f u) := by
  unfold filterFrame
  split
  · exact .goes hkept.congr .none hseq.symm
  · exact State.skip_outcome hkept hseq

theorem checkFrame_outcome (f : List Byte) : Outcome s (checkFrame f u) := by
  have hverified := hkept.verify f
  unfold checkFrame
  generalize u.verify f = v at hverified
  obtain ⟨t, _ | e⟩ := v
  · exact .goes hverified.congr .none hseq.symm
  · exact .fails e (Seq.ne_idle_of_receiving hseq) hverified .none

theorem errorTest_outcome (f : List Byte) : Outcome s (errorTest f u) := by
  unfold errorTest
  split
  · exact .fails _ (Seq.ne_idle_of_receiving hseq) hkept.congr .none
  · exact .goes hkept.congr .none hseq.symm

theorem matchFunction_outcome (f : List Byte) : Outcome s (matchFunction f u) := by
  unfold matchFunction
  split
  · exact .returns _ (Seq.ne_idle_of_receiving hseq) hkept.congr
  · exact .fails _ (Seq.ne_idle_of_receiving hseq) hkept .none

theorem filterModel_outcome (r : List Byte) : Outcome s (filterModel r u) := by
  unfold filterModel
  split
  · obtain ⟨v, k, h, -⟩ := ({ u with addrHit := true } : State).setRespfn_shape r
    rw [h]
    split
    · exact .goes hkept.congr .none hseq.symm
    · exact .returns _ (Seq.ne_idle_of_receiving hseq) hkept.congr
  · exact State.skip_outcome hkept hseq

theorem checkModel_outcome (r : List Byte) : Outcome s (checkModel r u) := by
  have hverified := hkept.verify r
  unfold checkModel
  generalize u.verify r = v at hverified
  obtain ⟨t, _ | e⟩ := v
  · exact .returns _ (Seq.ne_idle_of_receiving hseq) hverified
  · exact .fails e (Seq.ne_idle_of_receiving hseq) hverified .none

theorem checkDiscover_outcome (hop : s.op = some .discover) (r : List Byte) : Outcome s (checkDiscover r u) := by
  have hverified := hkept.verify r
  unfold checkDiscover
  generalize u.verify r = v at hverified
  obtain ⟨t, _ | e⟩ := v
  · exact .binds _ (Seq.ne_idle_of_receiving hseq) hop hverified
  · exact .fails e (Seq.ne_idle_of_receiving hseq) hverified .none

end InHand

theorem State.kept_ticked (s : State) : s.Kept s.ticked [] := .of_row

/-- Everything a row can do is one of the outcomes. -/
theorem Row.outcome {s t : State} (h : Row s t) : Outcome s t := by
  have hheld : ∀ {q : Seq}, s.seq = q → q.receiving = true → s.seq.receiving = true := fun hq hr => by rw [hq, hr]
  cases h with
  | idle => exact .goes s.kept_ticked .none rfl
  | build fn p hq _ ho =>
    have hmid : (∃ fn p, s.op = some (.execute fn p)) ∨ s.op = some .model :=
      ho.imp (fun ho => ⟨fn, p, ho⟩) (fun ⟨ho, _⟩ => ho)
    exact .goes ⟨rfl, rfl, rfl, rfl, rfl, rfl, rfl, .inr ⟨rfl, hq, hmid⟩⟩ .none (by rw [hq]; rfl)
  | buildDiscover hq => exact .goes .of_row .none (by rw [hq]; rfl)
  | txPrep hq =>
    exact .goes .of_row (.prepWrite (by rw [hq]; rfl)) (by rw [hq]; rfl)
  | txWrite u hq =>
    exact .goes .of_row (.txWrite _ (by rw [hq]; rfl)) (by rw [hq]; rfl)
  | txWriteFails u e hq =>
    exact .fails _ (by simp [hq]) .of_row (.txWrite _ (by rw [hq]; rfl))
  | txFlush u hq => exact .flushed hq .of_row rfl
  | txFlushFails u e hq =>
    exact .fails _ (by simp [hq]) .of_row (.txFlush (by rw [hq]; rfl))
  | rxPrep hq =>
    exact .goes .of_row (.prepRead (by rw [hq]; rfl)) (by rw [hq]; rfl)
  | readFails n u e hn =>
    have hr : s.seq.receiving = true := (State.readSize_seq hn).elim (hheld · rfl) (hheld · rfl)
    exact .fails _ (Seq.ne_idle_of_receiving hr) .of_row (.rxRead n hr)
  | header fn p b u ho hq =>
    exact State.checkLength_outcome .of_row (new := [.rxRead 6]) (.rxRead 6 (hheld hq rfl)) (hheld hq rfl)
  | remainder fn p b u ho hq | discovered b u ho hq | modelled b u ho hq =>
    exact .goes .of_row (.rxRead _ (hheld hq rfl)) (hheld hq rfl).symm
  | filter fn p ho hq => exact filterFrame_outcome s.kept_ticked (hheld hq rfl) _
  | check fn p ho hq => exact checkFrame_outcome s.kept_ticked (hheld hq rfl) _
  | error fn p ho hq => exact errorTest_outcome s.kept_ticked (hheld hq rfl) _
  | function fn p ho hq => exact matchFunction_outcome s.kept_ticked (hheld hq rfl) _
  | modelFilter ho hq => exact filterModel_outcome s.kept_ticked (hheld hq rfl) _
  | modelCheck ho hq => exact checkModel_outcome s.kept_ticked (hheld hq rfl) _
  | discoverCheck ho hq => exact checkDiscover_outcome s.kept_ticked (hheld hq rfl) ho _

/-! ### The parameters and the invariant -/

theorem Outcome.params {s t : State} (h : Outcome s t) : t.params = s.params := by
  cases h with
  | goes hkept | flushed _ hkept | fails _ _ hkept | returns _ _ hkept | binds _ _ _ hkept => exact hkept.params

/-- Settles O47 (R4, R10): a command, a reset and every row keep the invariant, and none of them writes a parameter. -/
theorem stepKeepsInvariant : Obligations.StepKeepsInvariant := by
  unfold Obligations.StepKeepsInvariant
  intro s t hinv ht
  cases stepped_of_step hinv ht with
  | command c _ hserved => exact hserved.keeps (hinv.withInputs _)
  | reset cut _ he =>
    subst he
    have hparams := State.cutOff_params { s with inputs := s.inputs.tail } cut
    exact ⟨State.hardReset_inv ((congrArg Params.ok hparams).trans hinv.params), hparams⟩
  | unit _ hrow => exact ⟨hrow.keeps_inv hinv, hrow.outcome.params⟩

/-! ### Who writes the address and the message id (R11, R12) -/

theorem State.KeepsControl.binding {s t : State} (h : s.KeepsControl t) :
    t.addr = s.addr ∧ t.addrV = s.addrV ∧ t.mid = s.mid := by
  unfold State.KeepsControl at h
  rw [h]
  exact ⟨rfl, rfl, rfl⟩

/-- Settles O49 (R11): among the commands only `BIND` writes the address, among the rows only the end of a `DISCOVER`. -/
theorem addressWriters : Obligations.AddressWriters := by
  unfold Obligations.AddressWriters
  intro s t hinv ht hreset
  cases stepped_of_step hinv ht with
  | command c hl hserved =>
    cases hserved with
    | refused | allocated | accepted => exact .inl ⟨rfl, rfl⟩
    | returned u v _ hkeep | failed u v _ hkeep =>
      obtain ⟨haddr, hvalid, -⟩ := hkeep.binding
      exact .inl ⟨haddr, hvalid⟩
    | bound a _ hd => exact .inr ⟨rfl, .inl ⟨c, hl, hd, rfl⟩⟩
  | reset cut hl => exact absurd hl (hreset cut)
  | unit hl hrow =>
    cases hrow.outcome with
    | goes hkept | flushed _ hkept | fails _ _ hkept | returns _ _ hkept => exact .inl ⟨hkept.addr, hkept.addrV⟩
    | binds a _ hop hkept => exact .inr ⟨rfl, .inr ⟨hl, hop, congrArg (_ :: ·) hkept.answers⟩⟩

/-- Settles O50 (R12): `BUILD` is the only row that allocates, and the end of a `DISCOVER` the only one that restarts the
ids. -/
theorem messageIdWriters : Obligations.MessageIdWriters := by
  unfold Obligations.MessageIdWriters
  intro s t hinv ht
  cases stepped_of_step hinv ht with
  | command c hl hserved =>
    cases hserved with
    | refused | accepted => exact .inl rfl
    | returned u v _ hkeep | failed u v _ hkeep =>
      obtain ⟨-, -, hmid⟩ := hkeep.binding
      exact .inl hmid
    | bound a _ hd => exact .inr (.inr ⟨rfl, .inr (.inl ⟨c, a, hl, hd⟩)⟩)
    | allocated _ hd => exact .inr (.inl ⟨rfl, .inl ⟨c, hl, hd, rfl⟩⟩)
  | reset cut hl he => exact .inr (.inr ⟨he ▸ rfl, .inl ⟨cut, hl⟩⟩)
  | unit hl hrow =>
    cases hrow.outcome with
    | goes hkept | flushed _ hkept | fails _ _ hkept | returns _ _ hkept =>
      exact hkept.mid.imp_right fun ⟨hmid, hq, hop⟩ => .inl ⟨hmid, .inr ⟨hl, hq, hop⟩⟩
    | binds a _ hop hkept => exact .inr (.inr ⟨rfl, .inr (.inr ⟨hl, hop, congrArg (_ :: ·) hkept.answers⟩)⟩)

/-! ### One result for each operation (R230, R240) -/

/-- Settles O51 (R230, R240, R24): each outcome that ends the operation gives one result, and it clears `BUSY`. -/
theorem oneResultPerOperation : Obligations.OneResultPerOperation := by
  unfold Obligations.OneResultPerOperation
  intro s t hinv hl ht
  cases (row_of_step hinv hl ht).outcome with
  | goes hkept | flushed _ hkept => exact .inl ⟨hkept.answers, hkept.busy, hkept.op⟩
  | fails e hactive hkept =>
    exact .inr ⟨hinv.busy.2 hactive, _, congrArg (_ :: ·) hkept.answers, rfl, rfl, rfl, rfl, rfl⟩
  | returns v hactive hkept | binds v hactive _ hkept =>
    exact .inr ⟨hinv.busy.2 hactive, _, congrArg (_ :: ·) hkept.answers, rfl, rfl, rfl, rfl, rfl⟩

/-! ### The log events (R52) -/

/-- Besides the log events a row makes at most one call, and it is none. -/
theorem RowCalls.no_log {s : State} {new : List TifCall} (h : RowCalls s new) :
    new.count .logReq = 0 ∧ new.count .logResp = 0 := by
  cases h <;> exact ⟨by simp, by simp⟩

theorem RowCalls.notMem_log {s : State} {new : List TifCall} (h : RowCalls s new) :
    .logReq ∉ new ∧ .logResp ∉ new :=
  ⟨List.count_eq_zero.1 h.no_log.1, List.count_eq_zero.1 h.no_log.2⟩

/-- Settles O52 (R52): `LogReq` belongs to the outcome of a flush, `LogResp` to the two outcomes with a value. -/
theorem logEventsOnSuccessOnly : Obligations.LogEventsOnSuccessOnly := by
  unfold Obligations.LogEventsOnSuccessOnly
  intro s t hinv hl ht
  cases (row_of_step hinv hl ht).outcome with
  | @goes _ new hkept hcalls hseq =>
    obtain ⟨hreq, hresp⟩ := hcalls.no_log
    refine ⟨new, hkept.calls, by omega, by omega, iff_of_false hcalls.notMem_log.1 ?_, iff_of_false hcalls.notMem_log.2 ?_⟩
    · rintro ⟨hfrom, hto⟩
      rw [hfrom, hto] at hseq
      cases hseq
    · rintro ⟨v, hv⟩
      exact List.cons_ne_self _ _ (hv.symm.trans hkept.answers)
  | flushed hq hkept hto =>
    refine ⟨_, hkept.calls, by decide, by decide, iff_of_true (by simp) ⟨hq, hto⟩, iff_of_false (by simp) ?_⟩
    rintro ⟨v, hv⟩
    exact List.cons_ne_self _ _ (hv.symm.trans hkept.answers)
  | @fails u new e _ hkept hcalls =>
    obtain ⟨hreq, hresp⟩ := hcalls.no_log
    refine ⟨new, hkept.calls, by omega, by omega, iff_of_false hcalls.notMem_log.1 ?_, iff_of_false hcalls.notMem_log.2 ?_⟩
    · rintro ⟨-, hto⟩
      cases hto
    · rintro ⟨v, hv⟩
      cases hv
  | returns v _ hkept | binds v _ _ hkept =>
    refine ⟨[.logResp], congrArg (_ :: ·) hkept.calls, by decide, by decide, iff_of_false (by simp) ?_,
      iff_of_true (by simp) ⟨_, congrArg (_ :: ·) hkept.answers⟩⟩
    rintro ⟨-, hto⟩
    cases hto

/-! ### The flush between a write and the reads behind it (R55) -/

/-- Behind the flush of the request no row writes or flushes. -/
theorem RowCalls.lastOutput_append {s : State} {new : List TifCall} (h : RowCalls s new) (hseq : s.seq.receiving = true)
    (cs : List TifCall) : lastOutput (new ++ cs) = lastOutput cs := by
  cases h with
  | none | prepRead | rxRead => rfl
  | prepWrite hsends | txWrite _ hsends | txFlush hsends => exact absurd (hseq.symm.trans hsends) (by decide)

/-- A row reads only behind the flush of the request. -/
theorem RowCalls.receiving_of_read {s : State} {new : List TifCall} (h : RowCalls s new) {n : Nat}
    (hread : .rxRead n ∈ new) : s.seq.receiving = true := by
  cases h with
  | rxRead _ hseq => exact hseq
  | none | prepWrite | txWrite | txFlush | prepRead => simp at hread

/-- A command makes no call on the transport, and the unit is behind the flush only if it was there before. -/
theorem Served.calls {d : Except DecodeError Instr} {s t : State} (h : Served d s t) :
    t.calls = s.calls ∧ (t.seq.receiving = true → s.seq.receiving = true) := by
  cases h with
  | refused | bound | allocated => exact ⟨rfl, id⟩
  | accepted => exact ⟨rfl, fun h => by cases h⟩
  | returned u v _ hkeep =>
    unfold State.KeepsControl at hkeep
    rw [hkeep]
    exact ⟨rfl, id⟩
  | failed u e _ hkeep =>
    unfold State.KeepsControl at hkeep
    rw [hkeep]
    exact ⟨rfl, fun h => by cases h⟩

theorem State.readSize_of_blockedIn {s : State} {n : Nat} (h : s.blockedIn = some (.rxRead n)) : s.readSize = some n := by
  unfold State.blockedIn at h
  split at h
  · cases h
  · cases h
  · obtain ⟨m, hm, hn⟩ := Option.map_eq_some_iff.1 h
    cases hn
    exact hm

theorem State.receiving_of_readSize {s : State} {n : Nat} (h : s.readSize = some n) : s.seq.receiving = true := by
  rcases State.readSize_seq h with hq | hq <;> rw [hq] <;> rfl

/-- A read that a reset cuts off stands behind the flush too. -/
theorem State.receiving_of_cutOff {s : State} {cut : Option Cut} {n : Nat}
    (h : s.calls.count (.rxRead n) < (s.cutOff cut).calls.count (.rxRead n)) : s.seq.receiving = true := by
  obtain ⟨u, new, hcut, hnew⟩ := s.cutOff_shape cut
  rw [hcut] at h
  obtain ⟨rfl, -⟩ | ⟨p, hp, rfl⟩ := hnew
  · exact absurd h (Nat.lt_irrefl _)
  · by_cases hread : p = .rxRead n
    · exact State.receiving_of_readSize (State.readSize_of_blockedIn (hread ▸ hp))
    · exact absurd h (by simp [hread])

/-- What a row owes to R55: the calls it makes keep the newest write or flush, and its reads stand behind the flush. -/
theorem Outcome.flushed_before {s t : State} (h : Outcome s t)
    (hbefore : s.seq.receiving = true → lastOutput s.calls = some .txFlush) :
    (t.seq.receiving = true → lastOutput t.calls = some .txFlush) ∧
      ∀ n, s.calls.count (.rxRead n) < t.calls.count (.rxRead n) → lastOutput s.calls = some .txFlush := by
  cases h with
  | goes hkept hcalls hseq =>
    rw [hkept.calls]
    refine ⟨fun hto => ?_, fun n hn => hbefore (hcalls.receiving_of_read (n := n) (List.count_pos_iff.1 ?_))⟩
    · have hfrom := hseq.symm.trans hto
      rw [hcalls.lastOutput_append hfrom, hbefore hfrom]
    · rw [List.count_append] at hn
      omega
  | flushed hq hkept =>
    rw [hkept.calls]
    exact ⟨fun _ => rfl, fun n hn => absurd hn (by simp)⟩
  | @fails u new e _ hkept hcalls =>
    refine ⟨(fun hto => by cases hto), fun n hn => hbefore (hcalls.receiving_of_read (n := n) (List.count_pos_iff.1 ?_))⟩
    rw [State.raise_calls, hkept.calls, List.count_append] at hn
    omega
  | @returns u _ _ hkept | @binds u _ _ _ hkept =>
    refine ⟨(fun hto => by cases hto), fun n hn => absurd hn ?_⟩
    show ¬ _ < (TifCall.logResp :: u.calls).count (.rxRead n)
    rw [hkept.calls]
    simp

/-- Settles O53 (R55): commands and resets never go behind the flush, and the rows that do so come through it. -/
theorem flushBeforeEveryRead : Obligations.FlushBeforeEveryRead := by
  unfold Obligations.FlushBeforeEveryRead
  refine ⟨(fun h => by cases h), fun s t hinv hbefore ht => ?_⟩
  cases stepped_of_step hinv ht with
  | command c _ hserved =>
    obtain ⟨hcalls, hseq⟩ := hserved.calls
    rw [hcalls]
    exact ⟨fun hto => hbefore (hseq hto), fun n hn => absurd hn (Nat.lt_irrefl _)⟩
  | reset cut _ he =>
    subst he
    exact ⟨(fun hto => by cases hto), fun n hn =>
      hbefore (State.receiving_of_cutOff (s := { s with inputs := s.inputs.tail }) hn)⟩
  | unit _ hrow => exact hrow.outcome.flushed_before hbefore

end Sys2Proof.Machine
end

section
/-! Proofs of the whole-machine family: the laws of the checksum (40_checksum.md) and the round trips of the field codec
(41_codec.md). -/

namespace Sys2Proof.Machine

/-! ### The byte step as a linear bijection (R110) -/

theorem getLsbD_crcPoly_top : Config.crcPoly.getLsbD 15 = true := by decide

/-- The shifted value has its top bit clear, so the top bit tells whether the polynomial went in. -/
theorem crcShift_top (c : Half) : (crcShift c).getLsbD 15 = c.getLsbD 0 := by
  unfold crcShift
  cases h : c.getLsbD 0 <;> simp [Config.crcPoly]

theorem crcShift_injective : Function.Injective crcShift := by
  intro c d h
  have hlow : c.getLsbD 0 = d.getLsbD 0 := by rw [← crcShift_top, ← crcShift_top, h]
  have hrest : c >>> 1 = d >>> 1 := by
    unfold crcShift at h
    rw [hlow] at h
    split at h
    · exact (BitVec.xor_left_inj _).1 h
    · exact h
  apply BitVec.eq_of_getLsbD_eq
  intro i hi
  cases i with
  | zero => exact hlow
  | succ i =>
    have hbit := congrArg (fun v => BitVec.getLsbD v i) hrest
    simpa [Nat.add_comm 1 i] using hbit

theorem crcShift_xor (a b : Half) : crcShift (a ^^^ b) = crcShift a ^^^ crcShift b := by
  unfold crcShift
  rw [BitVec.getLsbD_xor, BitVec.ushiftRight_xor_distrib]
  cases a.getLsbD 0 <;> cases b.getLsbD 0 <;> simp [BitVec.xor_assoc, BitVec.xor_comm Config.crcPoly]

theorem repeat_crcShift_injective (n : Nat) : Function.Injective (Nat.repeat crcShift n) := by
  induction n with
  | zero => exact Function.injective_id
  | succ n ih => exact crcShift_injective.comp ih

theorem repeat_crcShift_xor (n : Nat) (a b : Half) :
    Nat.repeat crcShift n (a ^^^ b) = Nat.repeat crcShift n a ^^^ Nat.repeat crcShift n b := by
  induction n with
  | zero => rfl
  | succ n ih =>
    show crcShift (Nat.repeat crcShift n (a ^^^ b)) = _
    rw [ih, crcShift_xor]
    rfl

theorem repeat_crcShift_zero (n : Nat) : Nat.repeat crcShift n 0#16 = 0#16 := by
  induction n with
  | zero => rfl
  | succ n ih =>
    show crcShift (Nat.repeat crcShift n 0#16) = 0#16
    rw [ih]
    rfl

theorem crcStep_eq_step_zero (c : Half) (b : Byte) : crcStep c b = crcStep (c ^^^ b.setWidth 16) 0#8 := by
  simp [crcStep]

theorem crcStep_injective (b : Byte) : Function.Injective fun c : Half => crcStep c b := by
  intro c d h
  exact (BitVec.xor_left_inj _).1 (repeat_crcShift_injective 8 h)

theorem crcStep_bijective (b : Byte) : Function.Bijective fun c : Half => crcStep c b :=
  Finite.injective_iff_bijective.1 (crcStep_injective b)

/-- One shot and reset, update, get leave the same values and give the same answer (R110 item 5). -/
theorem execAll_reset_upd_get {s : State} (hfree : s.busy = false) (k : Engine) (b : List Byte) :
    execAll [.crcReset k, .crcUpd k b, .crcGet k] s =
      .next ((((s.setCrc k Config.crcInit).ret .none).setCrc k (crc16 b)).ret .none |>.ret (.half (crc16 b))) := by
  cases k <;> simp [execAll, exec_crcReset, exec_crcUpd, exec_crcGet, State.immediate, hfree, State.setCrc, State.crc,
    State.ret, crc16]

/-- Settles O8 (R110 items 1 to 3 and 5): the shift is injective because its top bit tells the low bit it had. -/
theorem crcAlgebra : Obligations.CrcAlgebra := by
  unfold Obligations.CrcAlgebra
  refine ⟨crcStep_eq_step_zero, repeat_crcShift_zero 8, crcStep_bijective, fun k b s hfree => ?_⟩
  refine ⟨_, _, exec_crcSum k b s, execAll_reset_upd_get hfree k b, ?_⟩
  cases k <;> simp [State.immediate, hfree, State.setCrc]

/-! ### The residue (R110 item 4) -/

/-- Shifting a number that stands above `n` clear bits down through them never meets the polynomial. -/
theorem repeat_crcShiftNat_mul (n y : Nat) : Nat.repeat crcShiftNat n (y * 2 ^ n) = y := by
  induction n generalizing y with
  | zero => exact Nat.mul_one y
  | succ n ih =>
    show crcShiftNat (Nat.repeat crcShiftNat n (y * 2 ^ (n + 1))) = y
    rw [show y * 2 ^ (n + 1) = y * 2 * 2 ^ n by ring, ih, crcShiftNat, if_neg (by omega), Nat.mul_div_cancel _ (by decide)]

/-- A byte is the eightfold shift of the same byte in the high half. -/
theorem repeat_crcShift_high (y : Byte) : Nat.repeat crcShift 8 (y.setWidth 16 <<< 8) = y.setWidth 16 := by
  apply BitVec.eq_of_toNat_eq
  have hy := y.isLt
  have hhigh : (y.setWidth 16 <<< 8).toNat = y.toNat * 2 ^ 8 := by
    rw [BitVec.toNat_shiftLeft, BitVec.toNat_setWidth_of_le (by decide), Nat.shiftLeft_eq]
    omega
  rw [repeat_crcShift_toNat, hhigh, repeat_crcShiftNat_mul, BitVec.toNat_setWidth_of_le (by decide)]

/-- Two bytes folded in are one 16-bit value, low byte first, folded in. -/
theorem crcFold_pair (c : Half) (x y : Byte) :
    crcFold [x, y] c = Nat.repeat crcShift 8 (Nat.repeat crcShift 8 (c ^^^ le16 x y)) := by
  have hpair : c ^^^ le16 x y = (c ^^^ x.setWidth 16) ^^^ y.setWidth 16 <<< 8 := by
    have hdisjoint : x.setWidth 16 ||| y.setWidth 16 <<< 8 = x.setWidth 16 ^^^ y.setWidth 16 <<< 8 := by
      apply BitVec.eq_of_getLsbD_eq
      intro i hi
      by_cases h : i < 8
      · simp [h]
      · simp [BitVec.getLsbD_of_ge x i (Nat.not_lt.1 h)]
    rw [le16_eq_or, hdisjoint, BitVec.xor_assoc]
  rw [hpair, repeat_crcShift_xor 8 (c ^^^ _), repeat_crcShift_high]
  rfl

theorem crcFold_pair_eq_zero_iff (c : Half) (x y : Byte) : crcFold [x, y] c = 0#16 ↔ c = le16 x y := by
  have hinj : ∀ {v w : Half}, Nat.repeat crcShift 8 (Nat.repeat crcShift 8 v) =
      Nat.repeat crcShift 8 (Nat.repeat crcShift 8 w) → v = w := fun h =>
    repeat_crcShift_injective 8 (repeat_crcShift_injective 8 h)
  have hzero : Nat.repeat crcShift 8 (Nat.repeat crcShift 8 0#16) = 0#16 := by
    rw [repeat_crcShift_zero, repeat_crcShift_zero]
  have hdiff : c ^^^ le16 x y = 0#16 ↔ c = le16 x y := BitVec.xor_eq_zero_iff
  rw [crcFold_pair, ← hdiff]
  exact ⟨fun h => hinj (h.trans hzero.symm), fun h => by rw [h, hzero]⟩

/-- Settles O9 (R110 item 4): the last two bytes bring the running value to zero exactly when they are it. -/
theorem crcResidueZero : Obligations.CrcResidueZero := by
  unfold Obligations.CrcResidueZero
  refine ⟨fun s => ?_, fun f hlen => ?_⟩
  · rw [crcFold_append, le16Bytes]
    exact (crcFold_pair_eq_zero_iff _ _ _).2 (le16_bytes _).symm
  · have htail : f.drop (f.length - 2) = [byteAt f (f.length - 2), byteAt f (f.length - 2 + 1)] :=
      bytes_pair (by omega)
    have hsplit : crcFold f 0xFFFF#16 = crcFold (f.drop (f.length - 2)) (crc16 (f.take (f.length - 2))) := by
      rw [crc16, ← crcFold_append, List.take_append_drop]
    rw [hsplit, htail]
    exact crcFold_pair_eq_zero_iff _ _ _

/-! ### `CRC.UPD` (R104) -/

/-- Settles O3 (R104): the fold of two sequences one behind the other is the fold of both together. -/
theorem crcUpdateFoldsAndSplits : Obligations.CrcUpdateFoldsAndSplits := by
  unfold Obligations.CrcUpdateFoldsAndSplits
  refine ⟨fun a => ⟨decodeCmd_crcUpd .tx a, decodeCmd_crcUpd .rx a⟩,
    fun s b => ⟨exec_crcUpd .tx b s, exec_crcUpd .rx b s⟩, fun k a b s hfree => ?_⟩
  refine ⟨_, _, exec_crcUpd k (a ++ b) s, ?_, rfl⟩
  rw [crcFold_append]
  cases k <;> simp [execAll, exec_crcUpd, State.immediate, hfree, State.setCrc, State.crc]

/-! ### Byte order (R5, R41, R82) -/

/-- Settles O10 (R5, R41, R82): each order is a digit expansion to the base 256, most or least significant first. -/
theorem byteOrderOfFields : Obligations.ByteOrderOfFields := by
  unfold Obligations.ByteOrderOfFields
  refine ⟨fun a b => ⟨toNat_be16 a b, toNat_be16 b a, ?_, ?_⟩, fun a b c d => ⟨?_, ?_, be32Bytes_be32 a b c d, ?_⟩⟩
  · rw [be16Bytes, hi_be16, lo_be16]
  · rw [le16Bytes, lo_le16, hi_le16]
  · rw [toNat_be32]
    omega
  · rw [show le32 a b c d = be32 d c b a from rfl, toNat_be32]
    omega
  · exact congrArg List.reverse (be32Bytes_be32 d c b a)

/-! ### Timestamps (R122) -/

theorem tsPack_eq_ok_iff {t : Timestamp} {s : List Byte} : tsPack t = .ok s ↔
    (2000 ≤ t.year ∧ t.year ≤ 2255 ∧ t.month ≤ 255 ∧ t.day ≤ 255 ∧ t.hour ≤ 255 ∧ t.minute ≤ 255 ∧ t.second ≤ 255) ∧
      s = [BitVec.ofNat 8 (t.year - 2000), BitVec.ofNat 8 t.month, BitVec.ofNat 8 t.day, BitVec.ofNat 8 t.hour,
        BitVec.ofNat 8 t.minute, BitVec.ofNat 8 t.second] := by
  unfold tsPack
  split
  · simp only [reduceCtorEq, false_iff]
    omega
  · split
    · simp only [reduceCtorEq, false_iff]
      omega
    · rw [Except.ok.injEq, eq_comm]
      exact (and_iff_right (by omega)).symm

/-- Settles O13 (R122): a year fits its byte as its distance from 2000, and the other fields as they are. -/
theorem timestampRoundTrip : Obligations.TimestampRoundTrip := by
  unfold Obligations.TimestampRoundTrip
  refine ⟨fun s hlen => ?_, fun t s h => ?_⟩
  · obtain ⟨y, mo, d, h, mi, se, rfl⟩ : ∃ y mo d h mi se, s = [y, mo, d, h, mi, se] := by
      match s, hlen with
      | [y, mo, d, h, mi, se], _ => exact ⟨y, mo, d, h, mi, se, rfl⟩
    have hfits := fun b : Byte => Nat.le_of_lt_succ b.isLt
    refine ⟨_, tsUnpack_cons y mo d h mi se [], tsPack_eq_ok_iff.2 ⟨⟨Nat.le_add_right 2000 _, ?_, hfits _, hfits _, hfits _, hfits _,
      hfits _⟩, ?_⟩⟩
    · exact Nat.add_le_add_left (hfits y) 2000
    · simp
  · obtain ⟨⟨hfrom, hto, hmonth, hday, hhour, hminute, hsecond⟩, rfl⟩ := tsPack_eq_ok_iff.1 h
    have hback := fun (n : Nat) (hn : n ≤ 255) => (BitVec.toNat_ofNat n 8).trans (Nat.mod_eq_of_lt (Nat.lt_succ_of_le hn))
    refine ⟨rfl, (tsUnpack_cons _ _ _ _ _ _ []).trans ?_⟩
    rw [hback _ (show t.year - 2000 ≤ 255 by omega), hback _ hmonth, hback _ hday, hback _ hhour, hback _ hminute,
      hback _ hsecond, Nat.add_sub_cancel' hfrom]

/-! ### The whole request frame (R71, R72, R126) -/

/-- The fields of a request frame (R126). -/
def requestFields (addr : Word) (fn : Byte) (payload : List Byte) (id : Half) : FrameFields where
  addr := addr
  len := BitVec.ofNat 8 (10 + payload.length)
  payload := payload
  id := id
  checksum := crc16 (be32Bytes addr ++ [fn, BitVec.ofNat 8 (10 + payload.length)] ++ payload ++ be16Bytes id)

theorem requestFrame_eq (addr : Word) (fn : Byte) (payload : List Byte) (id : Half) :
    requestFrame addr fn payload id = frameBytes fn (requestFields addr fn payload id) := rfl

theorem requestFields_checksum (addr : Word) (fn : Byte) (payload : List Byte) (id : Half) :
    crc16 (checkedBytes fn (requestFields addr fn payload id)) = (requestFields addr fn payload id).checksum := rfl

theorem withChecksum_request (addr : Word) (fn : Byte) (payload : List Byte) (id : Half) :
    withChecksum (checkedBytes fn (requestFields addr fn payload id)) = requestFrame addr fn payload id := rfl

theorem envEncode_request {addr : Word} {fn : Byte} {payload : List Byte} {id : Half} (hfits : payload.length ≤ 245) :
    envEncode addr fn payload id = .ok (checkedBytes fn (requestFields addr fn payload id)) := envEncode_eq hfits

/-- On a free unit an operation that returns a value answers it and leaves the unit free. -/
theorem State.immediate_returns {s t : State} (hfree : s.busy = false) (hbusy : t.busy = false)
    (hanswers : t.answers = s.answers) (v : Value) :
    ∃ u, s.immediate t (.ok v) = u ∧ u.busy = false ∧ u.answers = .ok v :: s.answers := by
  refine ⟨_, rfl, State.immediate_busy _ hfree hbusy, ?_⟩
  simp [State.immediate, hfree, hanswers]

/-- `CRC.VERIFY` passes a frame whose checksum is right (R107, R126). -/
theorem exec_crcVerify_request {s : State} (hfree : s.busy = false) (addr : Word) (fn : Byte) (payload : List Byte)
    (id : Half) : ∃ t, exec (.crcVerify (requestFrame addr fn payload id)) s = .next t ∧
      t.answers = .ok .none :: s.answers := by
  have hright := requestFields_checksum addr fn payload id
  refine ⟨_, exec_crcVerify _ s, ?_⟩
  rw [requestFrame_eq, State.verify_frame, if_pos hright]
  simp [State.immediate, hfree, verdict]

/-- Settles O16 (R71, R72, R126): the envelope with its checksum is the frame of the request's fields. -/
theorem requestFrameIsWhole : Obligations.RequestFrameIsWhole := by
  unfold Obligations.RequestFrameIsWhole
  intro s addr fn payload id hfree hfits
  have hlen := requestFrame_length addr fn payload id
  obtain ⟨t, ht, htfree, htanswer⟩ := State.immediate_returns hfree hfree rfl
    (.bytes (checkedBytes fn (requestFields addr fn payload id)))
  obtain ⟨u, hu, hufree, huanswer⟩ := State.immediate_returns 
    (t := t.setCrc .tx (crc16 (checkedBytes fn (requestFields addr fn payload id)))) htfree htfree rfl
    (.bytes (requestFrame addr fn payload id))
  obtain ⟨v, hv, hvanswer⟩ := exec_crcVerify_request hufree addr fn payload id
  have hencode : exec (.envEncode addr fn payload id) s = .next t := by
    rw [exec_envEncode, envEncode_request hfits, ← ht]
    rfl
  have happend : exec (.crcAppend (checkedBytes fn (requestFields addr fn payload id))) t = .next u :=
    by
    rw [exec_crcAppend, withChecksum_request, hu]
  have hcount : (requestFields addr fn payload id).len.toNat = 10 + payload.length := by
    rw [requestFields, BitVec.toNat_ofNat]
    omega
  refine ⟨_, _, t, u, v, hencode, htanswer, happend, huanswer, hv, hvanswer, hlen, ?_⟩
  generalize hfields : requestFields addr fn payload id = f at *
  have hframe : requestFrame addr fn payload id = frameBytes fn f := hfields ▸ requestFrame_eq addr fn payload id
  have haddr : f.addr = addr := hfields ▸ rfl
  have hpayload : f.payload = payload := hfields ▸ rfl
  have hid : f.id = id := hfields ▸ rfl
  have hchecksum : f.checksum = crc16 (checkedBytes fn f) := hfields ▸ rfl
  refine ⟨by rw [hlen, hframe, frameBytes_len, hcount], ?_⟩
  rw [hframe, frameBytes_fn, be32At_frameBytes, frameFields_frameBytes, frameBytes_id, frameBytes_checksum]
  exact ⟨rfl, haddr, hpayload, hid, hchecksum⟩

/-! ### Channel masks (R128) -/

theorem exec_chmDecode (m : Word) (s : State) :
    exec (.chmDecode m) s = .next (s.immediate s (.ok (.channels (chmDecode m)))) := unlessBusy_ret s s _

theorem mem_chmDecode (m : Word) (n : Nat) : n ∈ chmDecode m ↔ 1 ≤ n ∧ n ≤ 32 ∧ m.getLsbD (n - 1) = true := by
  simp only [chmDecode, List.mem_map, List.mem_filter, List.mem_range]
  refine ⟨?_, fun ⟨hlow, hhigh, hbit⟩ => ⟨n - 1, ⟨by show _ < 32; omega, hbit⟩, by omega⟩⟩
  rintro ⟨i, ⟨hi, hbit⟩, rfl⟩
  exact ⟨by omega, hi, hbit⟩

theorem chmDecode_pairwise (m : Word) : (chmDecode m).Pairwise (· < ·) :=
  List.pairwise_map.2 ((List.pairwise_lt_range.filter _).imp Nat.succ_lt_succ)

/-- The loop goes through only with good indices. -/
theorem good_of_chmLoop {l : List Nat} {m m' : Word} (h : chmLoop l m = .ok m') : ∀ d ∈ l, 1 ≤ d ∧ d ≤ 32 := by
  induction l generalizing m with
  | nil => exact fun _ hd => absurd hd List.not_mem_nil
  | cons c l ih =>
    by_cases hbad : c < 1 ∨ c > 32
    · rw [chmLoop_bad hbad] at h
      cases h
    · have hgood : 1 ≤ c ∧ c ≤ 32 := by omega
      have hloop := chmLoop_append (good := [c]) (by simpa using hgood) l m
      exact List.forall_mem_cons.2 ⟨hgood, ih (hloop.symm.trans h)⟩

/-- The mask of a set that was encoded (R127). -/
theorem getLsbD_of_chmEncode {l : List Nat} {m : Word} (h : chmEncode l = .ok m) :
    (∀ d ∈ l, 1 ≤ d ∧ d ≤ 32) ∧ ∀ i, i < 32 → (m.getLsbD i = true ↔ i + 1 ∈ l) := by
  have hne : l ≠ [] := by
    rintro rfl
    cases h
  rw [chmEncode_of_ne_nil hne] at h
  have hgood := good_of_chmLoop h
  rw [chmLoop_good hgood] at h
  cases h
  exact ⟨hgood, fun i hi => (getLsbD_channelMask hgood _ hi).trans (by simp)⟩

/-- Settles O18 (R128): bit `i` stands for channel `i + 1` in both directions. -/
theorem channelDecode : Obligations.ChannelDecode := by
  unfold Obligations.ChannelDecode
  refine ⟨fun _ => decodeCmd_of_row 0x0D#5 rfl, fun s m =>
    ⟨chmDecode m, exec_chmDecode m s, chmDecode_pairwise m, mem_chmDecode m, fun c hc n => ?_⟩⟩
  obtain ⟨hgood, hbits⟩ := getLsbD_of_chmEncode hc
  rw [mem_chmDecode]
  constructor
  · rintro ⟨hlow, hhigh, hbit⟩
    have hmem := (hbits (n - 1) (by omega)).1 hbit
    rwa [Nat.sub_add_cancel hlow] at hmem
  · intro hmem
    obtain ⟨hlow, hhigh⟩ := hgood n hmem
    exact ⟨hlow, hhigh, (hbits (n - 1) (by omega)).2 (by rwa [Nat.sub_add_cancel hlow])⟩

/-! ### Error code names (R167, R213) -/

theorem errName_past {p : Params} {c : Byte} (h : p.errTable.length ≤ c.toNat) : errName p c = .unknown :=
  List.getD_eq_default _ _ h

/-- Settles O20 (R167, R213): a code past the end of the table is unknown. -/
theorem errorCodeNames : Obligations.ErrorCodeNames := by
  unfold Obligations.ErrorCodeNames
  refine ⟨fun _ => decodeCmd_of_row 0x0F#5 rfl, fun s c => unlessBusy_ret s s _, fun p hp => ?_⟩
  simp only [errName, hp]
  exact ⟨rfl, rfl, rfl, rfl, rfl, rfl, rfl, rfl, rfl, fun c hc => List.getD_eq_default _ _ hc⟩

end Sys2Proof.Machine
end

section
/-! Proofs of the whole-machine family: fetching, the issue of `DISCOVER` and `MODEL`, frames, and the registers the host
reads (10_state.md, 42_orchestrator.md, 43_function_codes.md). -/

namespace Sys2Proof.Machine

/-! ### Binding and issue (R151, R180, R182) -/

/-- The transport that a `REBIND` finds has done nothing yet; what it brings is the next link, if there is one. -/
theorem State.reconnect_shape (s : State) : ∃ (t : Transport) (l : List Link),
    s.reconnect = { s with transport := t, links := l } ∧
      t.outBuf = [] ∧ t.line = [] ∧ t.capTx = [] ∧ t.capRx = [] ∧ t.deadline = none ∧ t.now = s.transport.now ∧
      ((s.links = [] ∧ l = [] ∧ t.rx = [] ∧ t.tx = []) ∨ ∃ k, s.links = k :: l ∧ t.rx = k.rx ∧ t.tx = k.tx) := by
  cases hlinks : s.links with
  | nil =>
    exact ⟨s.transport.renewed ⟨[], [], s.transport.capture, s.transport.sink⟩, [],
      by simp only [State.reconnect, hlinks], rfl, rfl, rfl, rfl, rfl, rfl, .inl ⟨rfl, rfl, rfl, rfl⟩⟩
  | cons k rest =>
    exact ⟨s.transport.renewed k, rest, by simp only [State.reconnect, hlinks], rfl, rfl, rfl, rfl, rfl, rfl,
      .inr ⟨k, rfl, rfl, rfl⟩⟩

/-- Settles O22 (R151, R60). -/
theorem rebindKeepsRegisters : Obligations.RebindKeepsRegisters := by
  unfold Obligations.RebindKeepsRegisters
  refine ⟨fun _ => decodeCmd_of_row 0x11#5 rfl, fun s => ?_⟩
  obtain ⟨t, l, hreconnect, hfresh⟩ := s.reconnect_shape
  exact ⟨t, l, hreconnect ▸ unlessBusy_ret s s.reconnect .none, hfresh⟩

theorem exec_discover_free {s : State} (hfree : s.busy = false) : exec .discover s = .next (s.accept .discover) :=
  unlessBusy_free _ hfree

theorem exec_model_free {s : State} (hfree : s.busy = false) :
    exec .model s = .next (if s.addrV = false then s.raise .notBound else s.accept .model) := unlessBusy_free _ hfree

/-- Settles O25 (R180, R182): `BUSY` before the address, and `DISCOVER` needs none. -/
theorem discoverAndModelIssue : Obligations.DiscoverAndModelIssue := by
  unfold Obligations.DiscoverAndModelIssue
  refine ⟨fun _ => ⟨decodeCmd_of_row 0x14#5 rfl, decodeCmd_of_row 0x15#5 rfl⟩,
    fun s => ⟨fun hbusy => ⟨exec_host_busy rfl hbusy, exec_host_busy rfl hbusy⟩, fun hfree hunbound => ?_,
      exec_discover_free, fun hfree hbound => ?_⟩⟩
  · rw [exec_model_free hfree, if_pos hunbound, State.raise_eq]
  · rw [exec_model_free hfree, if_neg (by simp [hbound])]
    rfl

/-! ### Frames (R54, R167, R200, R275) -/

theorem exec_held_chkErr {i : Instr} {fn g : Byte} {f : FrameFields} {s : State} {p : List Byte}
    (hi : i.frameOf = some (fn, f)) (hop : s.op = some (.execute g p)) (hseq : s.seq = .chkErr) :
    exec i s = .next (errorTest (frameBytes fn f) s) := by
  rw [exec_held hi hop (.inr (.inr (.inl hseq)))]
  simp only [frameStage, hseq]

theorem errorTest_error {f : List Byte} {s : State} (h : byteAt f 4 = 0x00#8) :
    errorTest f s = ({ s with isErr := true, errcode := byteAt f 6 } : State).errorEnd
      (.deviceError (byteAt f 6) (errName s.params (byteAt f 6))) := if_pos h

theorem errorTest_other {f : List Byte} {s : State} (h : byteAt f 4 ≠ 0x00#8) :
    errorTest f s = { s with seq := .chkFn } := if_neg h

/-- Settles O35 (R167, R201): an error frame is the one with function code 0, and its code is the byte behind the
header. -/
theorem errorFrameTest : Obligations.ErrorFrameTest := by
  unfold Obligations.ErrorFrameTest
  refine ⟨fun f s g c p rest hop hseq hpayload => ?_, fun i fn f s g p hi hother hop hseq => ?_⟩
  · rw [exec_held_chkErr rfl hop hseq, errorTest_error (frameBytes_fn _ f), frameBytes_first hpayload]
  · rw [exec_held_chkErr hi hop hseq, errorTest_other ((frameBytes_fn fn f).trans_ne hother)]

/-- Settles O37 (R54, R275): with no frame in hand a frame instruction is its arrival. -/
theorem frameElsewhereWaits : Obligations.FrameElsewhereWaits := by
  unfold Obligations.FrameElsewhereWaits
  intro i fn f s hi hholds
  rw [exec_frame hi, receiveFrame, hholds, if_neg Bool.false_ne_true]
  rfl

/-! ### Fetching (R84, R85, R175) -/

/-- Settles O56: a command is run where its input is used up, a frame in hand and a waiting unit where a step has gone
by. -/
theorem stepRunsDecodedInstruction : Obligations.StepRunsDecodedInstruction := by
  unfold Obligations.StepRunsDecodedInstruction
  refine ⟨fun s c i hl hd => step_cmd hl hd, fun s i hl hholds hd => ?_, fun s hl hidle => step_idle hl hidle⟩
  obtain ⟨fn, f, hi, hbytes⟩ := decodeFrame_frame hd
  rw [step_held hl hholds, exec_frame hi, receiveFrame, hbytes, State.ticked_holdsFrame, if_pos hholds]

/-! ### The registers the host reads (R25, R231) -/

theorem getLsbD_flagBit (b : Bool) {i : Nat} (hi : i < 7) (j : Nat) : (flagBit b i).getLsbD j = (b && decide (j = i)) := by
  cases b with
  | false => simp [flagBit]
  | true =>
    simp only [flagBit, if_true, BitVec.getLsbD_shiftLeft, BitVec.getLsbD_one, Bool.true_and]
    by_cases hj : j = i
    · simp [hj]
      omega
    · simp only [hj, decide_false, Bool.and_eq_false_iff]
      simp
      omega

/-- Each flag stands at its bit of the word, and the bits above are zero. -/
theorem getLsbD_flagsWord (s : State) (j : Nat) : s.flagsWord.getLsbD j =
    ((s.busy && decide (j = 0)) || (s.done && decide (j = 1)) || (s.addrV && decide (j = 2)) ||
      (s.addrHit && decide (j = 3)) || (s.crcOk && decide (j = 4)) || (s.isErr && decide (j = 5)) ||
      (s.fnOk && decide (j = 6))) := by
  simp only [State.flagsWord, BitVec.getLsbD_or]
  rw [getLsbD_flagBit _ (by decide), getLsbD_flagBit _ (by decide), getLsbD_flagBit _ (by decide),
    getLsbD_flagBit _ (by decide), getLsbD_flagBit _ (by decide), getLsbD_flagBit _ (by decide),
    getLsbD_flagBit _ (by decide)]

theorem readReg_past (s : State) {n : Nat} (h : 0x14 ≤ n) : s.readReg n = none := by
  unfold State.readReg
  split
  case h_20 => rfl
  all_goals omega

/-- Settles O60 (R25, R231). -/
theorem registerMap : Obligations.RegisterMap := by
  unfold Obligations.RegisterMap
  intro s
  have hbits : ∀ j, (s.flagsWord.setWidth 32).getLsbD j = (decide (j < 32) && s.flagsWord.getLsbD j) :=
    fun j => BitVec.getLsbD_setWidth 32 s.flagsWord j
  refine ⟨rfl, fun n hn => readReg_past s hn, ⟨s.flagsWord.setWidth 32, rfl, ?_, ?_, ?_, ?_, ?_, ?_, ?_, fun i hi => ?_⟩, ?_,
    rfl, rfl, rfl, rfl, rfl, rfl, rfl, rfl, rfl, rfl, rfl, rfl, rfl, rfl, ?_, rfl, rfl⟩
  case refine_8 =>
    rw [hbits, getLsbD_flagsWord]
    have hne : ∀ k, k < 7 → decide (i = k) = false := fun k hk => decide_eq_false (by omega)
    simp [hne]
  case refine_9 =>
    show some (s.kind.code.setWidth 32) = _
    cases s.kind <;> rfl
  case refine_10 =>
    show some (s.seq.code.setWidth 32) = _
    cases s.seq <;> rfl
  all_goals
    rw [hbits, getLsbD_flagsWord]
    simp

end Sys2Proof.Machine
end

section
/-! Proofs of the whole-machine family: the rows that send and receive, and hardware reset (20_memory.md,
42_orchestrator.md, 70_reset_and_hazards.md). -/

namespace Sys2Proof.Machine

/-! ### The rows that send (R45 to R47, R159) -/

section Send
variable {s : State} {t : Transport}

theorem stepTxWrite_ok (h : s.transport.write s.txBytes = (.ok (), t)) : stepTxWrite s = .next
    { s with calls := .txWrite s.txBytes :: s.calls, transport := t, idx := s.txlen, seq := .txFlush } := by
  rw [stepTxWrite, State.txWrite_eq, h]

theorem stepTxWrite_error {e : IoErr} (h : s.transport.write s.txBytes = (.error e, t)) : stepTxWrite s = .next
    (({ s with calls := .txWrite s.txBytes :: s.calls, transport := t } : State).errorEnd (e.raised .txWrite)) := by
  rw [stepTxWrite, State.txWrite_eq, h]
  rfl

theorem stepTxFlush_ok (h : s.transport.flush = (.ok (), t)) : stepTxFlush s = .next
    { s with calls := .logReq :: .txFlush :: s.calls, transport := t.logReq, seq := .rxPrep } := by
  rw [stepTxFlush, State.txFlush_eq, h]
  rfl

theorem stepTxFlush_error {e : IoErr} (h : s.transport.flush = (.error e, t)) : stepTxFlush s = .next
    (({ s with calls := .txFlush :: s.calls, transport := t } : State).errorEnd (e.raised .txFlush)) := by
  rw [stepTxFlush, State.txFlush_eq, h]
  rfl

end Send

/-- Drawing an answer moves neither the clock nor the deadline. -/
theorem Transport.nextTx_outcome {t n : Transport} {a : TxAnswer} (h : t.nextTx = (a, n)) (b : TxAnswer) :
    n.outcome b = t.outcome b := by
  obtain ⟨x, k, rfl⟩ := Transport.nextTx_shape h
  rfl

theorem Transport.late_eq_true (t : Transport) (d : Nat) : t.late d = true ↔ ¬ t.inTime d := by
  rw [← Transport.late_eq_false, Bool.not_eq_false]

/-- A failure, in the words of R46 and R50, is the outcome of the answer. -/
theorem Transport.outcome_of_failure {t : Transport} {a : TxAnswer} {e : IoErr}
    (h : (e = .timedOut ∧ (a.outcome = .timedOut ∨ ¬ t.inTime a.took)) ∨
      ∃ x, e = .failed x ∧ a.outcome = .failed x ∧ t.inTime a.took) : t.outcome a = .error e := by
  simp only [← Transport.late_eq_false, Bool.not_eq_false] at h
  exact Transport.outcome_error h

/-- Settles O29 (R159, R45 to R47): the answer of the transport decides the row. -/
theorem sendRows : Obligations.SendRows := by
  unfold Obligations.SendRows
  refine ⟨fun s hl hq => step_txPrep hl hq, fun s a n hl hn hdone hin => ⟨fun hq => ?_, fun hq => ?_⟩,
    fun s a n e hl hn hfails => ⟨fun hq => ?_, fun hq => ?_⟩⟩
  · obtain ⟨u, hu, hline, hbytes, hrx, htx, hdeadline, hnow⟩ :=
      Transport.write_ok s.txBytes hn hdone ((Transport.late_eq_false _ _).2 hin)
    exact ⟨u, (step_txWrite hl hq).trans (stepTxWrite_ok hu), hline, hbytes, hrx, htx, hdeadline, hnow⟩
  · obtain ⟨u, hu, hline, hout, hrx, htx, hnow⟩ := Transport.flush_ok hn hdone ((Transport.late_eq_false _ _).2 hin)
    refine ⟨u.logReq, (step_txFlush hl hq).trans (stepTxFlush_ok hu), ?_⟩
    simp only [Transport.logReq_line, Transport.logReq_outBuf, Transport.logReq_rx, Transport.logReq_tx,
      Transport.logReq_now]
    exact ⟨hline, hout, hrx, htx, hnow⟩
  · have herror := (Transport.nextTx_outcome hn a).trans (Transport.outcome_of_failure hfails)
    obtain ⟨u, k, hu, hline, hrx⟩ := Transport.write_error s.txBytes hn herror
    refine ⟨u, k, (step_txWrite hl hq).trans ((stepTxWrite_error (s := s.ticked) hu).trans ?_), hline, hrx⟩
    cases e <;> rfl
  · have herror := (Transport.nextTx_outcome hn a).trans (Transport.outcome_of_failure hfails)
    obtain ⟨u, hu, hline, hrx⟩ := Transport.flush_error hn herror
    refine ⟨u, a.visible, (step_txFlush hl hq).trans ((stepTxFlush_error (s := s.ticked) hu).trans ?_), hline, hrx⟩
    cases e <;> rfl

/-! ### The rows that receive (R49, R161 to R163) -/

@[simp] theorem octets_length (ts : Timed) : (octets ts).length = ts.length := List.length_map _

/-- The transport behind a read of timed bytes (R49). -/
def Transport.afterArrivals (t : Transport) (ts : Timed) (rest : List RxEvent) : Transport :=
  ({ t with rx := rest, now := t.now + waits ts } : Transport).captureRx (octets ts)

/-- Such a read moves the clock and the stream, and of the output nothing. -/
theorem Transport.afterArrivals_shape (t : Transport) (ts : Timed) (rest : List RxEvent) :
    (t.afterArrivals ts rest).rx = rest ∧ (t.afterArrivals ts rest).now = t.now + waits ts ∧
      (t.afterArrivals ts rest).deadline = t.deadline ∧ (t.afterArrivals ts rest).line = t.line ∧
      (t.afterArrivals ts rest).outBuf = t.outBuf ∧ (t.afterArrivals ts rest).tx = t.tx := by
  simp [Transport.afterArrivals]

section LengthCheck
variable {u : State} {l : Byte} (hl : u.rxbuf.read .rx 5 = l)
include hl

theorem State.checkLength_short (h : l.toNat < 11) : u.checkLength = u.errorEnd (.invalidFrame l) := by
  subst hl
  exact if_pos h

theorem State.checkLength_long (h : 11 ≤ l.toNat) :
    u.checkLength = { u with rem := BitVec.ofNat 8 (l.toNat - 6), seq := .rxBody } := by
  have hrem : l - 6#8 = BitVec.ofNat 8 (l.toNat - 6) := by
    have hlt := l.isLt
    apply BitVec.eq_of_toNat_eq
    rw [BitVec.toNat_sub, BitVec.toNat_ofNat, BitVec.toNat_ofNat]
    omega
  rw [← hrem, ← hl]
  exact if_neg (by rw [hl]; exact Nat.not_lt.2 h)

end LengthCheck

/-- A byte of what was just written at the start of a buffer. -/
theorem Memory.read_setBytes_zero (sp : Space) {m : Memory} (hwf : m.wf) {b : List Byte} (hfits : b.length ≤ 255) {i : Nat}
    (hi : i < b.length) : (m.setBytes 0 b).read sp i = byteAt b i := by
  rw [Memory.read, Memory.get?_setBytes_zero hwf rfl hfits, if_pos hi, byteAt, List.getD_eq_getElem?_getD,
    List.getElem?_eq_getElem hi]
  rfl

/-- The header of a frame is received, and the length check follows. -/
theorem step_header {s : State} {fn : Byte} {p : List Byte} {h : Timed} {rest : List RxEvent} (hl : s.landing = none)
    (hq : s.seq = .rxHdr) (hop : s.op = some (.execute fn p)) (hlen : h.length = 6)
    (hrx : s.transport.rx = arrivals h ++ rest) (hin : s.transport.inTime (waits h)) :
    step s = .next (State.checkLength { s.ticked with
      calls := .rxRead 6 :: s.calls, transport := s.transport.afterArrivals h rest
      rxbuf := s.rxbuf.setBytes 0 (octets h), rxlen := 6#8, idx := 6#8 }) := by
  have hreceive := State.receive_arrivals (s := s.ticked) (q := .rxHdr) (a := 0) (fun t => .next t.checkLength) hrx
    ((Transport.late_eq_false _ _).2 hin) (by rw [hlen]; decide)
  rw [hlen] at hreceive
  rw [step_rxHdr hl hq, stepRxHdr, State.ticked_op, hop]
  exact hreceive

/-- Settles O30 (R161, R162): the length byte is the sixth byte of the header, which is in the buffer when it is
checked. -/
theorem headerRows : Obligations.HeaderRows := by
  unfold Obligations.HeaderRows
  refine ⟨fun s hl hq => step_rxPrep hl hq, fun s fn p h rest hl hq hop hwf hlen hrx hin => ?_⟩
  have hoctets : (octets h).length = 6 := (octets_length h).trans hlen
  have hbyte : (s.rxbuf.setBytes 0 (octets h)).read .rx 5 = byteAt (octets h) 5 :=
    Memory.read_setBytes_zero .rx hwf (by omega) (by omega)
  have hstep := step_header hl hq hop hlen hrx hin
  obtain ⟨h1, h2, h3, h4, h5, -⟩ := s.transport.afterArrivals_shape h rest
  refine ⟨_, _, h1, h2, h3, h4, h5, Memory.get?_setBytes_zero hwf hoctets (by decide), fun hshort => ?_, fun hlong => ?_⟩
  · rw [hstep, State.checkLength_short hbyte hshort]
  · rw [hstep, State.checkLength_long hbyte hlong]

/-- The remainder of a frame is received behind its header. -/
theorem step_remainder {s : State} {r : Timed} {rest : List RxEvent} (hl : s.landing = none) (hq : s.seq = .rxBody)
    (hrem : s.rem.toNat ≤ 249) (hlen : r.length = s.rem.toNat)
    (hrx : s.transport.rx = arrivals r ++ rest) (hin : s.transport.inTime (waits r)) :
    step s = .next { s.ticked with
      calls := .rxRead s.rem.toNat :: s.calls, transport := s.transport.afterArrivals r rest
      rxbuf := s.rxbuf.setBytes 6 (octets r), rxlen := 6#8 + s.rem, idx := 6#8 + s.rem, seq := .rxFilt } := by
  have hcount : BitVec.ofNat 8 (6 + s.rem.toNat) = 6#8 + s.rem := by
    rw [BitVec.ofNat_add, BitVec.ofNat_toNat, BitVec.setWidth_eq]
  have hreceive := State.receive_arrivals (s := s.ticked) (q := .rxBody) (a := 6) (fun t => .next { t with seq := .rxFilt })
    hrx ((Transport.late_eq_false _ _).2 hin) (show 6 + r.length ≤ 255 by omega)
  rw [hlen, hcount] at hreceive
  rw [step_rxBody hl hq, stepRxBody]
  exact hreceive

/-- Settles O31 (R163). -/
theorem remainderRow : Obligations.RemainderRow := by
  unfold Obligations.RemainderRow
  intro s fn p r rest hl hq _ hwf hrem hlen hrx hin
  obtain ⟨h1, h2, h3, h4, h5, -⟩ := s.transport.afterArrivals_shape r rest
  refine ⟨_, _, h1, h2, h3, h4, h5, fun i => ?_, step_remainder hl hq hrem hlen hrx hin⟩
  have hoctets : (octets r).length = s.rem.toNat := (octets_length r).trans hlen
  rw [Memory.get?_setBytes 6 _ i hwf (show 6 + (octets r).length ≤ 255 by omega), hoctets]

/-! ### Reads that fail (R49, R50, R232) -/

/-- At the steps that read, the unit receives as many bytes as its read asks for. -/
theorem step_read {s : State} {n : Nat} (hl : s.landing = none) (hn : s.readSize = some n) :
    ∃ (a : Nat) (k : State → Out), step s = s.ticked.receive s.seq a n k := by
  unfold State.readSize at hn
  split at hn
  case h_1 hop hq => cases hn; exact ⟨0, _, by rw [step_rxHdr hl hq, stepRxHdr, State.ticked_op, hop, hq]⟩
  case h_2 hop hq => cases hn; exact ⟨6, _, by rw [step_rxBody hl hq, stepRxBody, hq]; rfl⟩
  case h_3 hop hq => cases hn; exact ⟨0, _, by rw [step_rxHdr hl hq, stepRxHdr, State.ticked_op, hop, hq]; rfl⟩
  case h_4 hop hq => cases hn; exact ⟨0, _, by rw [step_rxHdr hl hq, stepRxHdr, State.ticked_op, hop, hq]; rfl⟩
  case h_5 => cases hn

/-- A read that fails ends the operation at its step. -/
theorem step_read_error {s : State} {n : Nat} {e : IoErr} {u : Transport} (hl : s.landing = none)
    (hn : s.readSize = some n) (h : Transport.read n s.transport = (.error e, u)) :
    step s = .next (({ s.ticked with calls := .rxRead n :: s.calls, transport := u } : State).errorEnd
      (e.raised s.seq)) := by
  obtain ⟨a, k, hstep⟩ := step_read hl hn
  exact hstep.trans (State.receive_error (s := s.ticked) k h)

theorem Transport.afterArrivals_inTime (t : Transport) (ts : Timed) (rest : List RxEvent) (d : Nat) :
    (t.afterArrivals ts rest).inTime d ↔ t.inTime (waits ts + d) := by
  obtain ⟨-, hnow, hdeadline, -⟩ := t.afterArrivals_shape ts rest
  simp only [Transport.inTime, hnow, hdeadline, Nat.add_assoc]

section NextEvent
variable {t : Transport} {rest : List RxEvent} (k : Nat)

theorem Transport.nextRx_cons {ev : RxEvent} (h : t.rx = ev :: rest) : t.nextRx = (ev, { t with rx := rest }) := by
  simp only [Transport.nextRx, h]

theorem Transport.read_silence (h : t.rx = .silence :: rest) :
    Transport.read (k + 1) t = (.error .timedOut, ({ t with rx := rest } : Transport).expire) := by
  simp only [Transport.read, Transport.nextRx_cons h]

theorem Transport.read_fail {gap x : Nat} (h : t.rx = .fail gap x :: rest) (hin : t.inTime gap) :
    Transport.read (k + 1) t = (.error (.failed x), { t with rx := rest, now := t.now + gap }) := by
  have hlate : ({ t with rx := rest } : Transport).late gap = false := (Transport.late_eq_false t gap).2 hin
  simp only [Transport.read, Transport.nextRx_cons h, hlate, Bool.false_eq_true, if_false]

theorem Transport.read_late {gap : Nat} {b : Byte} (h : t.rx = .arrive gap b :: rest) (hlate : ¬ t.inTime gap) :
    Transport.read (k + 1) t =
      (.error .timedOut, ({ t with rx := rest } : Transport).stillToCome (.arrive (t.leftOf gap) b)) := by
  have hlate : ({ t with rx := rest } : Transport).late gap = true := (Transport.late_eq_true t gap).2 hlate
  simp only [Transport.read, Transport.nextRx_cons h, hlate, if_true]
  rfl

end NextEvent

/-- What the line brings behind the bytes that came decides how a longer read ends. -/
theorem Transport.read_behind {t u : Transport} {got : Timed} {tail : List RxEvent} {n : Nat} {e : IoErr}
    (hgot : got.length < n) (hrx : t.rx = arrivals got ++ tail) (hin : t.inTime (waits got))
    (h : ∀ k, Transport.read (k + 1) (t.afterArrivals got tail) = (.error e, u)) : Transport.read n t = (.error e, u) := by
  obtain ⟨k, rfl⟩ : ∃ k, n = got.length + (k + 1) := ⟨n - got.length - 1, by omega⟩
  exact Transport.read_error got tail (k + 1) t hrx ((Transport.late_eq_false _ _).2 hin) (h k)

/-- Settles O32 (R49, R50, R232): the event behind the bytes that came ends the read. -/
theorem failedReadLosesItsBytes : Obligations.FailedReadLosesItsBytes := by
  unfold Obligations.FailedReadLosesItsBytes
  intro s n got ev rest hl hn hgot hrx hin
  obtain ⟨hbehind, -⟩ := s.transport.afterArrivals_shape got (ev :: rest)
  have hwaits := s.transport.afterArrivals_inTime got (ev :: rest)
  refine ⟨?_, fun gap x hev hsoon => ?_, fun gap b hev hlate => ?_⟩
  · rintro rfl
    exact ⟨_, rfl, step_read_error hl hn
      (Transport.read_behind hgot hrx hin fun k => Transport.read_silence k hbehind)⟩
  · subst hev
    exact ⟨_, rfl, step_read_error hl hn
      (Transport.read_behind hgot hrx hin fun k => Transport.read_fail k hbehind ((hwaits gap).2 hsoon))⟩
  · subst hev
    exact ⟨_, _, rfl, step_read_error hl hn
      (Transport.read_behind hgot hrx hin fun k => Transport.read_late k hbehind fun h => hlate ((hwaits gap).1 h))⟩

/-! ### Hardware reset (R260, R262) -/

/-- What is left of the unit behind a cut is what a reset of the unit itself leaves. -/
theorem State.hardReset_cutOff (s : State) (cut : Option Cut) : (s.cutOff cut).hardReset =
    { State.reset with
      params := s.params, transport := (s.cutOff cut).transport, links := s.links, inputs := s.inputs
      answers := s.answers, calls := (s.cutOff cut).calls, drawn := s.drawn } := by
  obtain ⟨u, new, hcut, -⟩ := s.cutOff_shape cut
  rw [hcut]
  rfl

/-- The unit blocks in a write, a flush or a read, and nowhere else. -/
theorem State.blockedIn_eq_none {s : State} (hwrite : s.seq ≠ .txWrite) (hflush : s.seq ≠ .txFlush)
    (hread : s.readSize = none) : s.blockedIn = none := by
  unfold State.blockedIn
  split
  · exact absurd ‹_› hwrite
  · exact absurd ‹_› hflush
  · rw [hread, Option.map_none]

/-- A read cut off behind the bytes that came in time loses them, and what follows is nearer by the time gone by. -/
theorem Transport.readCut_rx {t : Transport} {got : Timed} {rest : List RxEvent} (d : Nat)
    (hrx : t.rx = arrivals got ++ rest) (hin : t.inTime (waits got)) :
    (Transport.readCut got.length d t).rx =
      rest.modifyHead (sooner ((Transport.readCut got.length d t).now - (t.now + waits got))) := by
  rw [Transport.readCut_arrivals got rest d t hrx ((Transport.late_eq_false _ _).2 hin)]
  simp

/-- Settles O54 (R260, R262): the registers are those of `State.reset`, and the cut of the call that the unit blocks in is
what the line sees. -/
theorem hardwareReset : Obligations.HardwareReset := by
  unfold Obligations.HardwareReset
  intro s cut hl
  refine ⟨_, _, (step_reset hl).trans (congrArg _ (State.hardReset_cutOff _ cut)), ?_, fun hwrite hflush hread => ?_, ?_⟩
  · rintro rfl
    exact ⟨rfl, rfl⟩
  · have hfree : ({ s with inputs := s.inputs.tail } : State).blockedIn = none :=
      State.blockedIn_eq_none hwrite hflush hread
    rw [State.cutOff_free hfree]
    exact ⟨rfl, rfl⟩
  · rintro c rfl
    refine ⟨fun hq => ?_, fun hq => ?_, fun n hn => ?_⟩
    · have hblocked : ({ s with inputs := s.inputs.tail } : State).blockedIn = some (.txWrite s.txBytes) := by
        simp only [State.blockedIn, hq]
        rfl
      obtain ⟨hline, hbytes, hrx⟩ := s.transport.writeCut_shape s.txBytes c
      rw [State.cutOff_some hblocked]
      exact ⟨rfl, hrx, hline, hbytes⟩
    · have hblocked : ({ s with inputs := s.inputs.tail } : State).blockedIn = some .txFlush := by
        simp only [State.blockedIn, hq]
      obtain ⟨hline, hbytes, hrx⟩ := s.transport.flushCut_shape c
      rw [State.cutOff_some hblocked]
      exact ⟨rfl, hrx, hline, hbytes⟩
    · have hblocked : ({ s with inputs := s.inputs.tail } : State).blockedIn = some (.rxRead n) :=
        State.blockedIn_read (s := { s with inputs := s.inputs.tail }) hn
      obtain ⟨hout, hline, -⟩ := Transport.readCut_sameOutput (min c.consumed (n - 1)) c.took s.transport
      rw [State.cutOff_some hblocked]
      refine ⟨rfl, hline, hout, fun got rest hrx hin hgot hconsumed => ?_⟩
      have hcount : min c.consumed (n - 1) = got.length := by omega
      have hcut := Transport.readCut_rx c.took hrx hin
      rw [← hcount] at hcut
      exact hcut

end Sys2Proof.Machine
end

section
/-! Proofs of the whole-machine family: a frame in hand, row by row, and the end of every operation (42_orchestrator.md,
43_function_codes.md, 70_reset_and_hazards.md). -/

namespace Sys2Proof.Machine

/-! ### With no act of the host to come -/

theorem frameStage_rxFilt {s : State} (hq : s.seq = .rxFilt) (f : List Byte) :
    frameStage f s = .next (filterFrame f s) := by
  simp only [frameStage, hq]

theorem frameStage_chkCrc {s : State} (hq : s.seq = .chkCrc) (f : List Byte) :
    frameStage f s = .next (checkFrame f s) := by
  simp only [frameStage, hq]

theorem frameStage_chkErr {s : State} (hq : s.seq = .chkErr) (f : List Byte) :
    frameStage f s = .next (errorTest f s) := by
  simp only [frameStage, hq]

theorem frameStage_chkFn {s : State} (hq : s.seq = .chkFn) (f : List Byte) :
    frameStage f s = .next (matchFunction f s) := by
  simp only [frameStage, hq]

/-- Behind the address filter, with the frame of the function code `fn` still in hand (R164). -/
def State.owned (s : State) (fn : Byte) : State := { s with addrHit := true, respfn := fn, seq := .chkCrc }

/-- Behind the checksum check, at the step `q` (R166). -/
def State.checked (s : State) (fn : Byte) (f : FrameFields) (q : Seq) : State :=
  { s with
    addrHit := true, respfn := fn, crcRx := f.checksum, calccrc := f.checksum, recvcrc := f.checksum, crcOk := true
    seq := q }

section Quiet
variable {s : State} (hquiet : s.inputs = [])
include hquiet

theorem State.landing_of_quiet : s.landing = none := by
  unfold State.landing
  rw [hquiet]

theorem State.ticked_of_quiet : s.ticked = s := by
  unfold State.ticked
  rw [hquiet]
  cases s
  cases hquiet
  rfl

/-! ### A frame in hand (R164 to R169) -/

section Held
variable {g fn : Byte} {p : List Byte} {f : FrameFields} (hop : s.op = some (.execute g p))
  (hbytes : s.rxBytes = frameBytes fn f)
include hop hbytes

/-- The row of a frame in hand, on its bytes. -/
theorem step_inHand (hq : s.seq = .rxFilt ∨ s.seq = .chkCrc ∨ s.seq = .chkErr ∨ s.seq = .chkFn) :
    step s = frameStage (frameBytes fn f) s := by
  have hholds := (State.holdsFrame_iff s).2 ⟨⟨_, _, hop⟩, hq⟩
  rw [step_held (State.landing_of_quiet hquiet) hholds, State.ticked_of_quiet hquiet, hbytes]

theorem step_own (hq : s.seq = .rxFilt) (hown : f.addr = s.addr) :
    step s = .next (s.owned fn) := by
  rw [step_inHand hquiet hop hbytes (.inl hq), frameStage_rxFilt hq,
    filterFrame_own ((be32At_frameBytes fn f).trans hown), frameBytes_fn]
  rfl

theorem step_right (hq : s.seq = .chkCrc) (hright : crc16 (checkedBytes fn f) = f.checksum) :
    step s = .next { s with
      crcRx := f.checksum, calccrc := f.checksum, recvcrc := f.checksum, crcOk := true, seq := .chkErr } := by
  rw [step_inHand hquiet hop hbytes (.inr (.inl hq)), frameStage_chkCrc hq, checkFrame, State.verify_frame]
  simp only [hright, if_true, decide_true]

theorem step_wrong (hq : s.seq = .chkCrc) (hwrong : crc16 (checkedBytes fn f) ≠ f.checksum) :
    step s = .next (({ s with
      crcRx := crc16 (checkedBytes fn f), calccrc := crc16 (checkedBytes fn f), recvcrc := f.checksum
      crcOk := false } : State).errorEnd (.checksum (crc16 (checkedBytes fn f)) f.checksum)) := by
  rw [step_inHand hquiet hop hbytes (.inr (.inl hq)), frameStage_chkCrc hq, checkFrame, State.verify_frame]
  simp only [hwrong, if_false, decide_false, State.raise_eq]

theorem step_errorFrame (hq : s.seq = .chkErr) (herror : fn = 0x00#8) :
    step s = .next (({ s with isErr := true, errcode := byteAt (frameBytes fn f) 6 } : State).errorEnd
      (.deviceError (byteAt (frameBytes fn f) 6) (errName s.params (byteAt (frameBytes fn f) 6)))) := by
  rw [step_inHand hquiet hop hbytes (.inr (.inr (.inl hq))), frameStage_chkErr hq,
    errorTest_error ((frameBytes_fn fn f).trans herror)]

theorem step_noError (hq : s.seq = .chkErr) (hother : fn ≠ 0x00#8) : step s = .next { s with seq := .chkFn } := by
  rw [step_inHand hquiet hop hbytes (.inr (.inr (.inl hq))), frameStage_chkErr hq,
    errorTest_other ((frameBytes_fn fn f).trans_ne hother)]

theorem step_match (hq : s.seq = .chkFn) (hsame : fn = s.reqfn) :
    step s = .next (({ s with
      calls := .logResp :: s.calls, transport := s.transport.logResp, fnOk := true, respmid := f.id
      bodylen := BitVec.ofNat 8 (f.payload.length + 2), paylen := BitVec.ofNat 8 f.payload.length } : State).okEnd
        (.bytes (f.payload ++ be16Bytes f.id))) := by
  rw [step_inHand hquiet hop hbytes (.inr (.inr (.inr hq))), frameStage_chkFn hq, matchFunction_frame,
    if_pos hsame, State.finish_eq]

theorem step_mismatch (hq : s.seq = .chkFn) (hother : fn ≠ s.reqfn) :
    step s = .next (s.errorEnd (.protoMismatch s.reqfn fn)) := by
  rw [step_inHand hquiet hop hbytes (.inr (.inr (.inr hq))), frameStage_chkFn hq, matchFunction_frame,
    if_neg hother, State.raise_eq]

/-- A frame from the bound address with a right checksum reaches the error test in two steps. -/
theorem runs_to_chkErr (hq : s.seq = .rxFilt) (hown : f.addr = s.addr)
    (hright : crc16 (checkedBytes fn f) = f.checksum) : runs 2 s = .next (s.checked fn f .chkErr) :=
  (runs_succ (step_own hquiet hop hbytes hq hown)).trans
    (runs_succ (step_right (s := s.owned fn) hquiet hop hbytes rfl hright))

/-- One that is no error frame reaches the function match in three. -/
theorem runs_to_chkFn (hq : s.seq = .rxFilt) (hown : f.addr = s.addr)
    (hright : crc16 (checkedBytes fn f) = f.checksum) (hother : fn ≠ 0x00#8) :
    runs 3 s = .next (s.checked fn f .chkFn) :=
  (runs_add (n := 1) (runs_to_chkErr hquiet hop hbytes hq hown hright)).trans
    (runs_succ (step_noError (s := s.checked fn f .chkErr) hquiet hop hbytes rfl hother))

end Held

end Quiet

/-- Settles O38 (R200, R215): the four outcomes of a frame from the bound address, whatever its function code. -/
theorem heldFrameOfAnyCode : Obligations.HeldFrameOfAnyCode := by
  unfold Obligations.HeldFrameOfAnyCode
  intro s c fn p f hquiet hop hq hreqfn hbytes _ hown
  refine ⟨fun hwrong => ?_, fun hright => ⟨fun herror => ?_, fun hother hsame => ?_, fun hother hthird => ?_⟩⟩
  · exact ⟨_, (runs_succ (step_own hquiet hop hbytes hq hown)).trans
      (runs_succ (step_wrong (s := s.owned fn) hquiet hop hbytes rfl hwrong)), rfl, rfl⟩
  · exact ⟨_, (runs_add (n := 1) (runs_to_chkErr hquiet hop hbytes hq hown hright)).trans
      (runs_succ (step_errorFrame (s := s.checked fn f .chkErr) hquiet hop hbytes rfl herror)), rfl, rfl, rfl⟩
  · exact ⟨_, (runs_add (n := 1) (runs_to_chkFn hquiet hop hbytes hq hown hright hother)).trans
      (runs_succ (step_match (s := s.checked fn f .chkFn) hquiet hop hbytes rfl (hsame.trans hreqfn.symm))),
      rfl, rfl, rfl⟩
  · refine ⟨_, (runs_add (n := 1) (runs_to_chkFn hquiet hop hbytes hq hown hright hother)).trans
      (runs_succ (step_mismatch (s := s.checked fn f .chkFn) hquiet hop hbytes rfl (hreqfn.symm ▸ hthird))), rfl, ?_⟩
    show Result.err (.protoMismatch s.reqfn fn) :: s.answers = _
    rw [hreqfn]

/-! ### `EXEC 0x00` (R278) -/

/-- By the table of R175, `EXEC` ends with a value only where the function code in hand is that of the request. -/
theorem reqfn_of_success {s t : State} {fn : Byte} {p : List Byte} {v : Value} (hinv : s.Inv) (hl : s.landing = none)
    (hop : s.op = some (.execute fn p)) (ht : step s = .next t) (hok : t.answers = .ok v :: s.answers) :
    s.seq = .chkFn ∧ s.rxbuf.read .rx 4 = s.reqfn := by
  obtain ⟨-, htable⟩ := sequencerTransitions
  obtain ⟨u, hu, hrow⟩ := htable s fn p hinv hl hop
  rw [ht] at hu
  cases hu
  have hgoes : t.answers ≠ s.answers := fun h => List.cons_ne_self _ _ (hok.symm.trans h)
  have hfails : ∀ e : Err, t.answers ≠ .err e :: s.answers := fun e h => by
    have hheads := hok.symm.trans h
    cases hheads
  cases hq : s.seq <;> simp [hq, hgoes, hfails] at hrow
  case chkFn => exact ⟨rfl, hrow.1⟩

/-- Settles O43 (R278): a request with the error code would match an error frame alone, and none reaches the match. -/
theorem errorCodeRequestNeverSucceeds : Obligations.ErrorCodeRequestNeverSucceeds := by
  unfold Obligations.ErrorCodeRequestNeverSucceeds
  intro s t p v hinv hl hop ht hok
  obtain ⟨hq, hmatch⟩ := reqfn_of_success hinv hl hop ht hok
  have hlatched : s.reqfn = 0x00#8 := hinv.latched (by rw [hq]; rfl) _ p hop
  exact hinv.noError hq (hmatch.trans hlatched)

/-! ### With a bound on skips every operation ends (R176) -/

/-- How many rows an operation still has before it at a step, if it skips no more frames. -/
def Seq.rowsLeft : Seq → Nat
  | .idle => 0
  | .chkFn => 1
  | .chkErr => 2
  | .chkCrc => 3
  | .rxFilt => 4
  | .rxBody => 5
  | .rxHdr => 6
  | .rxPrep => 7
  | .txFlush => 8
  | .txWrite => 9
  | .txPrep => 10
  | .build => 11

/-- From `s` to `t` one row goes by: a later step of the exchange, or the next frame with one more skipped. -/
def State.Advances (s t : State) : Prop :=
  t.inputs.length = s.inputs.length ∧
    ((t.seq.rowsLeft < s.seq.rowsLeft ∧ t.skips = s.skips) ∨
      (s.seq = .rxFilt ∧ t.seq = .rxPrep ∧ t.skips = s.skips + 1))

theorem State.ticked_inputs_length (s : State) : s.ticked.inputs.length = s.inputs.length := by
  unfold State.ticked
  cases s.inputs <;> rfl

theorem State.advances_of_lt {s t : State} (hinputs : t.inputs.length = s.inputs.length)
    (hseq : t.seq.rowsLeft < s.seq.rowsLeft) (hskips : t.skips = s.skips) : t.busy = false ∨ s.Advances t :=
  .inr ⟨hinputs, .inl ⟨hseq, hskips⟩⟩

theorem State.skip_advances {s : State} (hq : s.seq = .rxFilt) : s.skip.busy = false ∨ s.Advances s.skip := by
  obtain ⟨h, -⟩ | ⟨h, -⟩ := s.skip_cases <;> rw [h]
  · exact .inr ⟨rfl, .inr ⟨hq, rfl, rfl⟩⟩
  · exact .inl rfl

theorem State.checkLength_advances {s u : State} (hq : s.seq = .rxHdr) (hinputs : u.inputs.length = s.inputs.length)
    (hskips : u.skips = s.skips) : u.checkLength.busy = false ∨ s.Advances u.checkLength := by
  simp only [State.checkLength]
  split
  · exact .inl rfl
  · exact State.advances_of_lt hinputs (by simp [hq, Seq.rowsLeft]) hskips

theorem filterFrame_advances {s : State} (hq : s.seq = .rxFilt) (f : List Byte) :
    (filterFrame f s).busy = false ∨ s.Advances (filterFrame f s) := by
  unfold filterFrame
  split
  · exact State.advances_of_lt rfl (by simp [hq, Seq.rowsLeft]) rfl
  · exact State.skip_advances hq

theorem State.SameButCheck.inputs_skips {s t : State} (h : s.SameButCheck t) :
    t.inputs = s.inputs ∧ t.skips = s.skips := by
  unfold State.SameButCheck at h
  rw [h]
  exact ⟨rfl, rfl⟩

theorem checkFrame_advances {s : State} (hq : s.seq = .chkCrc) (f : List Byte) :
    (checkFrame f s).busy = false ∨ s.Advances (checkFrame f s) := by
  have hsame := s.verify_same f
  unfold checkFrame
  generalize s.verify f = v at hsame
  obtain ⟨t, _ | e⟩ := v
  · obtain ⟨hinputs, hskips⟩ := State.SameButCheck.inputs_skips hsame
    exact State.advances_of_lt (congrArg List.length hinputs) (by simp [hq, Seq.rowsLeft]) hskips
  · exact .inl rfl

theorem errorTest_advances {s : State} (hq : s.seq = .chkErr) (f : List Byte) :
    (errorTest f s).busy = false ∨ s.Advances (errorTest f s) := by
  unfold errorTest
  split
  · exact .inl rfl
  · exact State.advances_of_lt rfl (by simp [hq, Seq.rowsLeft]) rfl

theorem matchFunction_ends (f : List Byte) (s : State) : (matchFunction f s).busy = false := by
  unfold matchFunction
  split <;> rfl

theorem filterModel_advances {s : State} (hq : s.seq = .rxFilt) (r : List Byte) :
    (filterModel r s).busy = false ∨ s.Advances (filterModel r s) := by
  unfold filterModel
  split
  · obtain ⟨v, k, h, -⟩ := ({ s with addrHit := true } : State).setRespfn_shape r
    rw [h]
    split
    · exact State.advances_of_lt rfl (by simp [hq, Seq.rowsLeft]) rfl
    · exact .inl rfl
  · exact State.skip_advances hq

theorem checkModel_ends (r : List Byte) (s : State) : (checkModel r s).busy = false := by
  unfold checkModel
  obtain ⟨t, _ | e⟩ := s.verify r <;> rfl

theorem checkDiscover_ends (r : List Byte) (s : State) : (checkDiscover r s).busy = false := by
  unfold checkDiscover
  obtain ⟨t, _ | e⟩ := s.verify r <;> rfl

/-- Every row of an operation in flight ends it or goes by (R175, R180, R182). -/
theorem Row.advances {s t : State} (h : Row s t) (hactive : s.seq ≠ .idle) : t.busy = false ∨ s.Advances t := by
  have hticked : ∀ {u : State}, (u.busy = false ∨ s.ticked.Advances u) → u.busy = false ∨ s.Advances u := fun h =>
    h.imp_right fun ⟨hinputs, hrest⟩ => ⟨hinputs.trans s.ticked_inputs_length, hrest⟩
  cases h with
  | idle hq => exact absurd hq hactive
  | build _ _ hq | buildDiscover hq | txPrep hq | txWrite _ hq | txFlush _ hq | rxPrep hq | remainder _ _ _ _ _ hq
  | discovered _ _ _ hq | modelled _ _ _ hq =>
    exact State.advances_of_lt s.ticked_inputs_length (by simp [hq, Seq.rowsLeft]) rfl
  | txWriteFails | txFlushFails | readFails => exact .inl rfl
  | header fn p b u _ hq => exact State.checkLength_advances hq s.ticked_inputs_length rfl
  | filter _ _ _ hq => exact hticked (filterFrame_advances (s := s.ticked) hq _)
  | check _ _ _ hq => exact hticked (checkFrame_advances (s := s.ticked) hq _)
  | error _ _ _ hq => exact hticked (errorTest_advances (s := s.ticked) hq _)
  | function => exact .inl (matchFunction_ends _ _)
  | modelFilter _ hq => exact hticked (filterModel_advances (s := s.ticked) hq _)
  | modelCheck => exact .inl (checkModel_ends _ _)
  | discoverCheck => exact .inl (checkDiscover_ends _ _)

/-- How many steps an operation in flight can still take within the bound `m` on skips: its rows, four for each frame it
may still skip, and one for each coming act of the host. -/
def State.stepsLeft (m : Nat) (s : State) : Nat := s.seq.rowsLeft + 4 * (m - s.skips) + s.inputs.length

theorem Seq.rowsLeft_le (q : Seq) : q.rowsLeft ≤ 11 := by
  cases q <;> decide

theorem State.Advances.stepsLeft_lt {s t : State} {m : Nat} (h : s.Advances t) (hskips : t.skips ≤ m) :
    t.stepsLeft m < s.stepsLeft m := by
  obtain ⟨hinputs, ⟨hseq, hsame⟩ | ⟨hfrom, hto, hmore⟩⟩ := h
  · unfold State.stepsLeft
    omega
  · have hfour : s.seq.rowsLeft = 4 := by rw [hfrom]; rfl
    have hseven : t.seq.rowsLeft = 7 := by rw [hto]; rfl
    unfold State.stepsLeft
    omega

theorem State.inputs_length_of_landing {s : State} {a : HostAct} (h : s.landing = some a) :
    s.inputs.tail.length < s.inputs.length := by
  unfold State.landing at h
  split at h
  · cases h
  · rename_i heq
    rw [heq]
    exact Nat.lt_succ_self _

/-- A step of an operation in flight ends it or leaves fewer steps to take. -/
theorem step_ends_or_nears {s t : State} {m : Nat} (hinv : s.Inv) (hbusy : s.busy = true)
    (hmax : s.params.maxSkips = some m) (ht : step s = .next t) :
    t.busy = false ∨ t.busy = true ∧ t.stepsLeft m < s.stepsLeft m := by
  cases hend : t.busy with
  | false => exact .inl rfl
  | true =>
    refine .inr ⟨rfl, ?_⟩
    obtain ⟨htinv, hparams⟩ := stepKeepsInvariant s t hinv ht
    cases stepped_of_step hinv ht with
    | command c hl hserved =>
      have hfewer := State.inputs_length_of_landing hl
      cases hserved with
      | refused => exact Nat.add_lt_add_left hfewer _
      | returned _ _ hfree | failed _ _ hfree | bound _ hfree | allocated hfree | accepted _ hfree =>
        exact absurd (hbusy.symm.trans hfree) (by decide)
    | reset cut _ he =>
      subst he
      cases hend
    | unit _ hrow =>
      have hadvances := (hrow.advances (hinv.busy.1 hbusy)).resolve_left (by rw [hend]; decide)
      exact hadvances.stepsLeft_lt (htinv.skips m (hparams ▸ hmax) hend)

/-- An operation in flight has ended after as many steps as it can take. -/
theorem ends_within_stepsLeft {m : Nat} (k : Nat) {s : State} (hinv : s.Inv) (hbusy : s.busy = true)
    (hmax : s.params.maxSkips = some m) (hk : s.stepsLeft m ≤ k) :
    ∃ (n : Nat) (t : State), n ≤ k + 1 ∧ runs n s = .next t ∧ t.busy = false := by
  induction k generalizing s with
  | zero =>
    obtain ⟨t, ht⟩ := unitNeverStops s hinv
    have hend := (step_ends_or_nears hinv hbusy hmax ht).resolve_right (by omega)
    exact ⟨1, t, Nat.le_refl _, runs_succ ht, hend⟩
  | succ k ih =>
    obtain ⟨t, ht⟩ := unitNeverStops s hinv
    obtain hend | ⟨hbusy', hfewer⟩ := step_ends_or_nears hinv hbusy hmax ht
    · exact ⟨1, t, by omega, runs_succ ht, hend⟩
    · obtain ⟨htinv, hparams⟩ := stepKeepsInvariant s t hinv ht
      obtain ⟨n, u, hn, hu, hend⟩ := ih htinv hbusy' (hparams ▸ hmax) (by omega)
      exact ⟨n + 1, u, by omega, (runs_succ ht).trans hu, hend⟩

/-- Settles O45 (R176): each step of an operation in flight uses up one of the rows, skips and acts that are left. -/
theorem boundedSkipsMeansTermination : Obligations.BoundedSkipsMeansTermination := by
  unfold Obligations.BoundedSkipsMeansTermination
  intro s m hinv hbusy hmax
  obtain ⟨n, t, hn, ht, hend⟩ := ends_within_stepsLeft (s.stepsLeft m) hinv hbusy hmax (Nat.le_refl _)
  have hrows := s.seq.rowsLeft_le
  exact ⟨n, t, by unfold State.stepsLeft at hn; omega, ht, hend⟩

end Sys2Proof.Machine
end

section
/-! Proofs of the whole-machine family: whole exchanges (42_orchestrator.md, 70_reset_and_hazards.md). Between its request
and the checks on its answer an exchange is followed by what it leaves alone. -/

namespace Sys2Proof.Machine

/-- The state without what sending and receiving write. -/
def State.still (s : State) : State :=
  { s with
    calls := [], transport := State.reset.transport, rxbuf := [], rxlen := 0#8, idx := 0#8, rem := 0#8
    addrHit := false, skips := 0, seq := .idle }

/-- What the mask leaves, two states with the same rest have in common. -/
theorem State.same_of_still {s t : State} {α : Type} (h : t.still = s.still) (g : State → α)
    (hg : ∀ u : State, g u.still = g u := by intro u; rfl) : g t = g s :=
  (hg t).symm.trans ((congrArg g h).trans (hg s))

/-! ### The issue and the request (R155 to R158) -/

/-- A command that the host has written lands on a free unit. -/
theorem State.landing_of_issue {s : State} {w : Bool} {a : HostAct} (hinputs : s.inputs = [⟨0, w, a⟩])
    (hfree : s.busy = false) : s.landing = some a := by
  simp [State.landing, hinputs, Input.lands, hfree]

/-- The state behind the acceptance of the operation `o` that the host's only act issues. -/
def State.issued (s : State) (o : SeqOp) : State := ({ s with inputs := [] } : State).accept o

/-- The command that lands is run with no act of the host left to come. -/
theorem step_issue {s : State} {w : Bool} {c : CmdWrite} {i : Instr} (hinputs : s.inputs = [⟨0, w, .cmd c⟩])
    (hfree : s.busy = false) (hd : decodeCmd c = .ok i) : step s = exec i { s with inputs := [] } := by
  rw [step_cmd (State.landing_of_issue hinputs hfree) hd, hinputs]
  rfl

section Request
variable {s : State} {fn : Byte} {p : List Byte}

/-- The state behind `BUILD` of a request (R157, R158). -/
def State.requested (s : State) (fn : Byte) (p : List Byte) : State :=
  { s with
    reqfn := fn, mid := nextMid s.mid
    crcTx := crc16 (be32Bytes s.addr ++ [fn, BitVec.ofNat 8 (10 + p.length)] ++ p ++ be16Bytes (nextMid s.mid))
    txbuf := s.txbuf.setBytes 0 (requestFrame s.addr fn p (nextMid s.mid)), txlen := BitVec.ofNat 8 (10 + p.length)
    seq := .txPrep }

theorem step_request (hquiet : s.inputs = []) (hq : s.seq = .build) (hfits : p.length ≤ 245)
    (hop : s.op = some (.execute fn p) ∨ (s.op = some .model ∧ fn = s.params.modelFn ∧ p = s.params.modelPayload)) :
    step s = .next (s.requested fn p) := by
  rw [step_build (State.landing_of_quiet hquiet) hq, State.ticked_of_quiet hquiet, stepBuild_request hop]
  exact State.buildRequest_eq hfits

/-- The transmit buffer then holds the request frame. -/
theorem State.requested_txBytes (hwf : s.txbuf.wf) (hfits : p.length ≤ 245) :
    (s.requested fn p).txBytes = requestFrame s.addr fn p (nextMid s.mid) := by
  have hlen := requestFrame_length s.addr fn p (nextMid s.mid)
  have hread := Memory.readBytes_setBytes_len8 .tx hwf
    (show (requestFrame s.addr fn p (nextMid s.mid)).length ≤ 255 by omega)
  rwa [len8, hlen] at hread

/-- The state behind `BUILD` of a `DISCOVER` (R180). -/
def State.searching (s : State) : State :=
  { s with txbuf := s.txbuf.setBytes 0 s.params.discReq, txlen := len8 s.params.discReq, seq := .txPrep }

theorem step_search (hquiet : s.inputs = []) (hq : s.seq = .build) (hop : s.op = some .discover)
    (hlen : s.params.discReq.length = 11) : step s = .next s.searching := by
  rw [step_build (State.landing_of_quiet hquiet) hq, State.ticked_of_quiet hquiet, stepBuild_discover hop]
  exact State.loadTx_eq (by rw [hlen]; decide)

theorem State.searching_txBytes (hwf : s.txbuf.wf) (hlen : s.params.discReq.length = 11) :
    s.searching.txBytes = s.params.discReq :=
  Memory.readBytes_setBytes_len8 .tx hwf (by rw [hlen]; decide)

end Request

/-! ### Sending (R159) -/

/-- The state behind the three rows that send, with the answers `tx` of the transport left. -/
structure State.Sent (s t : State) (tx : List TxAnswer) : Prop where
  kept : t.still = s.still
  seq : t.seq = .rxPrep
  skips : t.skips = s.skips
  addrHit : t.addrHit = s.addrHit
  rxbuf : t.rxbuf = s.rxbuf
  line : t.transport.line = s.transport.line ++ s.transport.outBuf ++ s.txBytes
  outBuf : t.transport.outBuf = []
  rx : t.transport.rx = s.transport.rx
  tx : t.transport.tx = tx
  logReq : t.calls.count .logReq = s.calls.count .logReq + 1
  logResp : t.calls.count .logResp = s.calls.count .logResp

theorem Transport.nextTx_cons {t : Transport} {a : TxAnswer} {rest : List TxAnswer} (h : t.tx = a :: rest) :
    t.nextTx = (a, { t with tx := rest }) := by
  simp only [Transport.nextTx, h]

/-- With a deadline set, what comes by then is in time (log 11). -/
theorem Transport.inTime_of_deadline {t : Transport} {e d : Nat} (h : t.deadline = some e) (hd : t.now + d ≤ e) :
    t.inTime d := by
  intro x hx
  cases h.symm.trans hx
  exact hd

/-- Behind `PrepWrite` (R159). -/
def State.prepared (s : State) : State :=
  { s with
    calls := .prepWrite :: s.calls, idx := 0#8, seq := .txWrite
    transport := { s.transport with deadline := some (s.transport.now + s.params.timeout), capTx := [] } }

/-- Behind the write of the request, with the transport `u` (R159). -/
def State.written (s : State) (u : Transport) : State :=
  { s with calls := .txWrite s.txBytes :: s.calls, transport := u, idx := s.txlen, seq := .txFlush }

/-- Behind its flush (R159). -/
def State.flushed (s : State) (u : Transport) : State :=
  { s with calls := .logReq :: .txFlush :: s.calls, transport := u, seq := .rxPrep }

section Send
variable {s : State} {a b : TxAnswer} {tx : List TxAnswer} (hquiet : s.inputs = [])
include hquiet

theorem step_prepWrite (hq : s.seq = .txPrep) : step s = .next s.prepared := by
  obtain ⟨hprep, -⟩ := sendRows
  rw [hprep s (State.landing_of_quiet hquiet) hq, State.ticked_of_quiet hquiet]
  rfl

theorem step_write (hq : s.seq = .txWrite) (htx : s.transport.tx = a :: tx) (ha : a.outcome = .done)
    (hin : s.transport.inTime a.took) : ∃ u, step s = .next (s.written u) ∧
      u.line ++ u.outBuf = s.transport.line ++ s.transport.outBuf ++ s.txBytes ∧ u.rx = s.transport.rx ∧ u.tx = tx ∧
      u.deadline = s.transport.deadline ∧ u.now = s.transport.now + a.took := by
  obtain ⟨-, hanswered, -⟩ := sendRows
  obtain ⟨hwrite, -⟩ := hanswered s a _ (State.landing_of_quiet hquiet) (Transport.nextTx_cons htx) ha hin
  rw [State.ticked_of_quiet hquiet] at hwrite
  obtain ⟨u, hstep, -, hrest⟩ := hwrite hq
  exact ⟨u, hstep, hrest⟩

theorem step_flush (hq : s.seq = .txFlush) (htx : s.transport.tx = a :: tx) (ha : a.outcome = .done)
    (hin : s.transport.inTime a.took) : ∃ u, step s = .next (s.flushed u) ∧
      u.line = s.transport.line ++ s.transport.outBuf ∧ u.outBuf = [] ∧ u.rx = s.transport.rx ∧ u.tx = tx := by
  obtain ⟨-, hanswered, -⟩ := sendRows
  obtain ⟨-, hflush⟩ := hanswered s a _ (State.landing_of_quiet hquiet) (Transport.nextTx_cons htx) ha hin
  rw [State.ticked_of_quiet hquiet] at hflush
  obtain ⟨u, hstep, hline, hout, hrx, htx, -⟩ := hflush hq
  exact ⟨u, hstep, hline, hout, hrx, htx⟩

/-- Answered in time, the request goes out in three rows. -/
theorem runs_send (hq : s.seq = .txPrep) (htx : s.transport.tx = a :: b :: tx) (ha : a.outcome = .done)
    (hb : b.outcome = .done) (htime : a.took + b.took ≤ s.params.timeout) :
    ∃ t, runs 3 s = .next t ∧ s.Sent t tx := by
  have hwritten : s.prepared.transport.inTime a.took :=
    Transport.inTime_of_deadline rfl (Nat.add_le_add_left (by omega) _)
  obtain ⟨u, hwrite, hline, hrx, htx, hdeadline, hnow⟩ := step_write (s := s.prepared) hquiet rfl htx ha hwritten
  have hflushed : u.inTime b.took := by
    refine Transport.inTime_of_deadline (hdeadline.trans rfl) ?_
    rw [hnow, Nat.add_assoc]
    exact Nat.add_le_add_left htime _
  obtain ⟨v, hflush, hline', hout, hrx', htx⟩ := step_flush (s := s.prepared.written u) hquiet rfl htx hb hflushed
  refine ⟨_, (runs_succ (step_prepWrite hquiet hq)).trans ((runs_succ hwrite).trans (runs_succ hflush)), ?_⟩
  exact {
    kept := rfl, seq := rfl, skips := rfl, addrHit := rfl, rxbuf := rfl, line := hline'.trans hline, outBuf := hout
    rx := hrx'.trans hrx, tx := htx, logReq := by simp [State.flushed, State.written, State.prepared]
    logResp := by simp [State.flushed, State.written, State.prepared] }

end Send

/-! ### Receiving (R161 to R163, R180, R182) -/

/-- What the rows that receive leave alone: registers, what is sent, and the log. -/
structure State.Listened (s t : State) : Prop where
  kept : t.still = s.still
  line : t.transport.line = s.transport.line
  outBuf : t.transport.outBuf = s.transport.outBuf
  tx : t.transport.tx = s.transport.tx
  logReq : t.calls.count .logReq = s.calls.count .logReq
  logResp : t.calls.count .logResp = s.calls.count .logResp

theorem State.Listened.trans {s t u : State} (h : s.Listened t) (g : t.Listened u) : s.Listened u where
  kept := g.kept.trans h.kept
  line := g.line.trans h.line
  outBuf := g.outBuf.trans h.outBuf
  tx := g.tx.trans h.tx
  logReq := g.logReq.trans h.logReq
  logResp := g.logResp.trans h.logResp

/-- The state with the bytes `f` received, at the step `q`, with the events `rest` left on the line. -/
structure State.Received (s t : State) (q : Seq) (f : List Byte) (rest : List RxEvent) : Prop extends s.Listened t where
  seq : t.seq = q
  skips : t.skips = s.skips
  addrHit : t.addrHit = s.addrHit
  wf : t.rxbuf.wf
  rxlen : t.rxlen = len8 f
  bytes : t.rxBytes = f
  rx : t.transport.rx = rest

/-- Behind `PrepRead` (R161). -/
def State.awaiting (s : State) : State :=
  { s with
    calls := .prepRead :: s.calls, rxlen := 0#8, idx := 0#8, seq := .rxHdr
    transport := { s.transport with deadline := some (s.transport.now + s.params.timeout), capRx := [] } }

/-- Behind a read of timed bytes that go to RXBUF from index `a` on, at the step `q` (R161, R163). -/
def State.loaded (s : State) (a : Nat) (ts : Timed) (rest : List RxEvent) (q : Seq) : State :=
  { s with
    calls := .rxRead ts.length :: s.calls, transport := s.transport.afterArrivals ts rest
    rxbuf := s.rxbuf.setBytes a (octets ts), rxlen := BitVec.ofNat 8 (a + ts.length)
    idx := BitVec.ofNat 8 (a + ts.length), seq := q }

/-- Behind the length check, with `n` bytes of the frame to come (R162). -/
def State.expecting (s : State) (n : Nat) : State := { s with rem := BitVec.ofNat 8 n }

theorem octets_append (x y : Timed) : octets (x ++ y) = octets x ++ octets y := List.map_append

theorem arrivals_append (x y : Timed) : arrivals (x ++ y) = arrivals x ++ arrivals y := List.map_append

theorem waits_append (x y : Timed) : waits (x ++ y) = waits x + waits y := by
  simp [waits]

theorem State.loaded_listened (s : State) (a : Nat) (ts : Timed) (rest : List RxEvent) (q : Seq) :
    s.Listened (s.loaded a ts rest q) := by
  obtain ⟨-, -, -, hline, hout, htx⟩ := s.transport.afterArrivals_shape ts rest
  exact ⟨rfl, hline, hout, htx, by simp [State.loaded], by simp [State.loaded]⟩

theorem State.awaiting_listened (s : State) : s.Listened s.awaiting :=
  ⟨rfl, rfl, rfl, rfl, by simp [State.awaiting], by simp [State.awaiting]⟩

theorem State.expecting_listened (s : State) (n : Nat) : s.Listened (s.expecting n) := ⟨rfl, rfl, rfl, rfl, rfl, rfl⟩

/-- Two pieces written one behind the other read back as one. -/
theorem Memory.readBytes_setBytes_append (sp : Space) {m : Memory} {a b : List Byte} (hwf : m.wf)
    (hfits : a.length + b.length ≤ 255) :
    ((m.setBytes 0 a).setBytes a.length b).readBytes sp 0 (a.length + b.length) = a ++ b := by
  have hfirst : 0 + a.length ≤ Config.bufSize := show 0 + a.length ≤ 255 by omega
  have hwf' := Memory.wf_setBytes hwf hfirst
  rw [Memory.readBytes_append, Memory.readBytes_setBytes_other sp a.length b 0 a.length hwf' hfits (by omega),
    Memory.readBytes_setBytes_same sp 0 a hwf hfirst, Nat.zero_add, Memory.readBytes_setBytes_same sp a.length b hwf' hfits]

/-- The operation in flight reads a response of the fixed size `n` and goes on at the step `q` (R180, R182). -/
def State.ReadsResponse (s : State) (n : Nat) (q : Seq) : Prop :=
  (s.op = some .discover ∧ s.params.discRespLen = n ∧ q = .chkCrc) ∨
    (s.op = some .model ∧ s.params.modelRespLen = n ∧ q = .rxFilt)

section Receive
variable {s : State} {x : Timed} {rest : List RxEvent} (hquiet : s.inputs = [])
include hquiet

theorem step_prepRead (hq : s.seq = .rxPrep) : step s = .next s.awaiting := by
  obtain ⟨hprep, -⟩ := headerRows
  rw [hprep s (State.landing_of_quiet hquiet) hq, State.ticked_of_quiet hquiet]
  rfl

/-- The header of a frame whose length byte passes the length check. -/
theorem step_header_long {fn : Byte} {p : List Byte} {n : Nat} (hq : s.seq = .rxHdr) (hop : s.op = some (.execute fn p))
    (hwf : s.rxbuf.wf) (hlen : x.length = 6) (hrx : s.transport.rx = arrivals x ++ rest)
    (hin : s.transport.inTime (waits x)) (hcount : (byteAt (octets x) 5).toNat = 6 + n) (hlong : 5 ≤ n) :
    step s = .next ((s.loaded 0 x rest .rxBody).expecting n) := by
  have hoctets := (octets_length x).trans hlen
  have hbyte : (s.rxbuf.setBytes 0 (octets x)).read .rx 5 = byteAt (octets x) 5 :=
    Memory.read_setBytes_zero .rx hwf (by omega) (by omega)
  rw [step_header (State.landing_of_quiet hquiet) hq hop hlen hrx hin, State.ticked_of_quiet hquiet,
    State.checkLength_long hbyte (by omega), hcount, Nat.add_sub_cancel_left, State.loaded, hlen]
  rfl

/-- The remainder of the frame. -/
theorem step_remainder_loaded (hq : s.seq = .rxBody) (hrem : s.rem = BitVec.ofNat 8 x.length) (hlen : x.length ≤ 249)
    (hrx : s.transport.rx = arrivals x ++ rest) (hin : s.transport.inTime (waits x)) :
    step s = .next (s.loaded 6 x rest .rxFilt) := by
  have hcount : s.rem.toNat = x.length := by rw [hrem, BitVec.toNat_ofNat]; omega
  rw [step_remainder (State.landing_of_quiet hquiet) hq (by omega) hcount.symm hrx hin, State.ticked_of_quiet hquiet,
    State.loaded, BitVec.ofNat_add, ← hrem, hcount]

/-- A whole frame, in time, comes to `EXEC` in three rows: the header and, behind the length check, the remainder. -/
theorem runs_frame {fn : Byte} {p : List Byte} (hq : s.seq = .rxPrep) (hop : s.op = some (.execute fn p))
    (hwf : s.rxbuf.wf) (hrx : s.transport.rx = arrivals x ++ rest) (hframe : isFrame (octets x))
    (htime : waits x ≤ s.params.timeout) : ∃ t, runs 3 s = .next t ∧ s.Received t .rxFilt (octets x) rest := by
  obtain ⟨hmin, hcount⟩ := hframe
  obtain ⟨h, r, rfl, hlen⟩ : ∃ h r, x = h ++ r ∧ h.length = 6 :=
    ⟨x.take 6, x.drop 6, (List.take_append_drop 6 x).symm, by rw [octets_length] at hmin; simp; omega⟩
  have hmax := (byteAt (octets (h ++ r)) 5).isLt
  have hoctets := (octets_length h).trans hlen
  rw [octets_length, List.length_append, hlen] at hmin hcount
  rw [octets_append, byteAt, List.getD_append _ _ _ _ (by omega), ← byteAt] at hcount hmax
  rw [arrivals_append, List.append_assoc] at hrx
  rw [waits_append] at htime
  have hheader : s.awaiting.transport.inTime (waits h) :=
    Transport.inTime_of_deadline rfl (Nat.add_le_add_left (by omega) _)
  have hbody : ((s.awaiting.loaded 0 h (arrivals r ++ rest) .rxBody).expecting r.length).transport.inTime (waits r) :=
    (Transport.afterArrivals_inTime _ _ _ _).2 (Transport.inTime_of_deadline rfl (Nat.add_le_add_left htime _))
  have hfirst := step_header_long (s := s.awaiting) hquiet rfl hop hwf hlen hrx hheader hcount (by omega)
  obtain ⟨hleft, -⟩ := s.awaiting.transport.afterArrivals_shape h (arrivals r ++ rest)
  have hsecond := step_remainder_loaded (s := (s.awaiting.loaded 0 h (arrivals r ++ rest) .rxBody).expecting r.length)
    hquiet rfl rfl (by omega) hleft hbody
  refine ⟨_, (runs_succ (step_prepRead hquiet hq)).trans ((runs_succ hfirst).trans (runs_succ hsecond)), ?_⟩
  have hread := Memory.readBytes_setBytes_append .rx hwf (a := octets h) (b := octets r)
    (by rw [octets_length r]; omega)
  have hfits : 0 + (octets h).length ≤ Config.bufSize := show _ ≤ 255 by omega
  have hlen8 : len8 (octets (h ++ r)) = BitVec.ofNat 8 (6 + r.length) := by
    rw [len8, octets_length, List.length_append, hlen]
  rw [hoctets, octets_length r, ← octets_append] at hread
  exact {
    toListened := s.awaiting_listened.trans ((State.loaded_listened ..).trans
      ((State.expecting_listened ..).trans (State.loaded_listened ..)))
    seq := rfl, skips := rfl, addrHit := rfl
    wf := Memory.wf_setBytes (Memory.wf_setBytes hwf hfits) (show 6 + (octets r).length ≤ 255 by
      rw [octets_length]; omega)
    rxlen := hlen8.symm
    bytes := by
      rw [State.rxBytes]
      simp only [State.loaded, State.expecting, State.awaiting]
      rw [BitVec.toNat_ofNat, Nat.mod_eq_of_lt (by omega)]
      exact hread
    rx := (Transport.afterArrivals_shape _ _ _).1 }

/-- A response of the fixed size. -/
theorem step_rxHdr_response {q : Seq} (hq : s.seq = .rxHdr) (hop : s.ReadsResponse x.length q) (hfits : x.length ≤ 255)
    (hrx : s.transport.rx = arrivals x ++ rest) (hin : s.transport.inTime (waits x)) :
    step s = .next (s.loaded 0 x rest q) := by
  have hload := fun k => State.receive_arrivals (s := s) (q := .rxHdr) (a := 0) k hrx ((Transport.late_eq_false _ _).2 hin)
    (show 0 + x.length ≤ 255 by omega)
  rw [step_rxHdr (State.landing_of_quiet hquiet) hq, State.ticked_of_quiet hquiet, stepRxHdr]
  obtain ⟨ho, hn, rfl⟩ | ⟨ho, hn, rfl⟩ := hop <;> rw [ho] <;> simp only [hn] <;> exact hload _

/-- A response of the fixed size, in time, comes to `DISCOVER` or `MODEL` in two rows. -/
theorem runs_response {q : Seq} (hq : s.seq = .rxPrep) (hop : s.ReadsResponse x.length q) (hwf : s.rxbuf.wf)
    (hfits : x.length ≤ 255) (hrx : s.transport.rx = arrivals x ++ rest) (htime : waits x ≤ s.params.timeout) :
    ∃ t, runs 2 s = .next t ∧ s.Received t q (octets x) rest := by
  have hin : s.awaiting.transport.inTime (waits x) :=
    Transport.inTime_of_deadline rfl (Nat.add_le_add_left htime _)
  refine ⟨_, (runs_succ (step_prepRead hquiet hq)).trans
    (runs_succ (step_rxHdr_response (s := s.awaiting) hquiet rfl hop hfits hrx hin)), ?_⟩
  have hlen : len8 (octets x) = BitVec.ofNat 8 (0 + x.length) := by rw [len8, octets_length, Nat.zero_add]
  have hoctets : (octets x).length ≤ 255 := by rwa [octets_length]
  exact {
    toListened := s.awaiting_listened.trans (State.loaded_listened ..)
    seq := rfl, skips := rfl, addrHit := rfl
    wf := Memory.wf_setBytes hwf (show 0 + (octets x).length ≤ 255 by omega)
    rxlen := hlen.symm
    bytes := by
      simp only [State.rxBytes, State.loaded, ← hlen]
      exact Memory.readBytes_setBytes_len8 .rx hwf hoctets
    rx := (Transport.afterArrivals_shape _ _ _).1 }

end Receive

/-! ### Skipping (R164, R165, R176, R182) -/

/-- Timed bytes that come in time, and that the operation in flight takes in `k` rows as a whole answer, to go on at the
step `q`. -/
def State.Takes (s : State) (k : Nat) (q : Seq) (x : Timed) : Prop :=
  waits x ≤ s.params.timeout ∧
    (((∃ fn p, s.op = some (.execute fn p)) ∧ isFrame (octets x) ∧ k = 3 ∧ q = .rxFilt) ∨
      (s.ReadsResponse x.length q ∧ x.length ≤ 255 ∧ k = 2))

theorem runs_take {s : State} {k : Nat} {q : Seq} {x : Timed} {rest : List RxEvent} (hquiet : s.inputs = [])
    (hq : s.seq = .rxPrep) (hwf : s.rxbuf.wf) (hrx : s.transport.rx = arrivals x ++ rest) (hx : s.Takes k q x) :
    ∃ t, runs k s = .next t ∧ s.Received t q (octets x) rest := by
  obtain ⟨hwaits, ⟨⟨fn, p, hop⟩, hframe, rfl, rfl⟩ | ⟨hop, hfits, rfl⟩⟩ := hx
  · exact runs_frame hquiet hq hop hwf hrx hframe hwaits
  · exact runs_response hquiet hq hop hwf hfits hrx hwaits

/-- It passes the address filter only for `EXEC` and `MODEL`. -/
theorem State.Takes.filters {s : State} {k : Nat} {x : Timed} (h : s.Takes k .rxFilt x) :
    (∃ fn p, s.op = some (.execute fn p)) ∨ s.op = some .model := by
  obtain ⟨-, ⟨hexec, -⟩ | ⟨⟨-, -, hq⟩ | ⟨hmodel, -⟩, -⟩⟩ := h
  · exact .inl hexec
  · cases hq
  · exact .inr hmodel

theorem State.Takes.of_still {s t : State} {k : Nat} {q : Seq} {x : Timed} (hx : s.Takes k q x)
    (h : t.still = s.still) : t.Takes k q x := by
  have hop := State.same_of_still h State.op
  have hparams := State.same_of_still h State.params
  simpa only [State.Takes, State.ReadsResponse, hop, hparams] using hx

/-- Timed bytes that the operation in flight takes for a frame of another device. -/
def State.Foreign (s : State) (k : Nat) (x : Timed) : Prop := s.Takes k .rxFilt x ∧ be32At (octets x) 0 ≠ s.addr

theorem State.Foreign.of_still {s t : State} {k : Nat} {x : Timed} (hx : s.Foreign k x) (h : t.still = s.still) :
    t.Foreign k x := by
  obtain ⟨htakes, hforeign⟩ := hx
  exact ⟨htakes.of_still h, by rwa [State.same_of_still h State.addr]⟩

/-- The state at the next `RX_PREP`, `n` skipped frames later, with the events `rest` left on the line. -/
structure State.Looped (s t : State) (n : Nat) (rest : List RxEvent) : Prop extends s.Listened t where
  seq : t.seq = .rxPrep
  skips : t.skips = s.skips + n
  addrHit : s.addrHit = false → t.addrHit = false
  wf : t.rxbuf.wf
  rx : t.transport.rx = rest

/-- The rows of a response in hand. -/
theorem step_inHand_response {s : State} (hquiet : s.inputs = []) (hop : s.op = some .discover ∨ s.op = some .model)
    (hq : s.seq = .rxFilt ∨ s.seq = .chkCrc) : step s = stepResponse s := by
  have hnone : s.holdsFrame = false := by obtain hop | hop := hop <;> simp [State.holdsFrame, hop]
  rw [step_advance (State.landing_of_quiet hquiet) hnone, State.ticked_of_quiet hquiet]
  obtain hq | hq := hq <;> simp only [advance, hq]

theorem step_checkDiscover {s : State} (hquiet : s.inputs = []) (hop : s.op = some .discover) (hq : s.seq = .chkCrc) :
    step s = .next (checkDiscover s.rxBytes s) := by
  rw [step_inHand_response hquiet (.inl hop) (.inr hq)]
  simp only [stepResponse, hop, hq]

theorem step_filterModel {s : State} (hquiet : s.inputs = []) (hop : s.op = some .model) (hq : s.seq = .rxFilt) :
    step s = .next (filterModel s.rxBytes s) := by
  rw [step_inHand_response hquiet (.inr hop) (.inl hq)]
  simp only [stepResponse, hop, hq]

theorem step_checkModel {s : State} (hquiet : s.inputs = []) (hop : s.op = some .model) (hq : s.seq = .chkCrc) :
    step s = .next (checkModel s.rxBytes s) := by
  rw [step_inHand_response hquiet (.inr hop) (.inr hq)]
  simp only [stepResponse, hop, hq]

/-- The row `RX_FILT` of a foreign frame. -/
theorem step_foreign {s : State} (hquiet : s.inputs = []) (hq : s.seq = .rxFilt)
    (hop : (∃ fn p, s.op = some (.execute fn p)) ∨ s.op = some .model) (hforeign : be32At s.rxBytes 0 ≠ s.addr) :
    step s = .next s.skip := by
  obtain hexec | hmodel := hop
  · rw [step_held (State.landing_of_quiet hquiet) ((State.holdsFrame_iff s).2 ⟨hexec, .inl hq⟩),
      State.ticked_of_quiet hquiet, frameStage_rxFilt hq, filterFrame_foreign hforeign]
  · rw [step_filterModel hquiet hmodel hq, filterModel, if_neg hforeign]

section Loop
variable {s : State} {k : Nat}

/-- A foreign frame within the bound brings the loop back to `RX_PREP`. -/
theorem runs_skip {x : Timed} {rest : List RxEvent} (hquiet : s.inputs = []) (hq : s.seq = .rxPrep) (hwf : s.rxbuf.wf)
    (hrx : s.transport.rx = arrivals x ++ rest) (hx : s.Foreign k x)
    (hbound : ∀ m, s.params.maxSkips = some m → s.skips + 1 ≤ m) :
    ∃ t, runs (k + 1) s = .next t ∧ s.Looped t 1 rest := by
  obtain ⟨u, hruns, hu⟩ := runs_take hquiet hq hwf hrx hx.1
  obtain ⟨htakes, hforeign⟩ := hx.of_still hu.kept
  have hinputs := State.same_of_still hu.kept State.inputs
  have hstep := step_foreign (hinputs.trans hquiet) hu.seq htakes.filters (by rwa [hu.bytes])
  rw [State.skip_within (by rwa [State.same_of_still hu.kept State.params, hu.skips])] at hstep
  refine ⟨_, (runs_add hruns).trans (runs_succ hstep), ?_⟩
  exact {
    toListened := hu.toListened.trans ⟨rfl, rfl, rfl, rfl, rfl, rfl⟩, seq := rfl, skips := congrArg (· + 1) hu.skips
    addrHit := fun _ => rfl, wf := hu.wf, rx := hu.rx }

/-- As many foreign frames as the bound allows do. -/
theorem runs_skips {foreign : List Timed} {rest : List RxEvent} (hquiet : s.inputs = []) (hq : s.seq = .rxPrep)
    (hwf : s.rxbuf.wf) (hrx : s.transport.rx = foreign.flatMap arrivals ++ rest) (hforeign : ∀ x ∈ foreign, s.Foreign k x)
    (hbound : ∀ m, s.params.maxSkips = some m → s.skips + foreign.length ≤ m) :
    ∃ t, runs ((k + 1) * foreign.length) s = .next t ∧ s.Looped t foreign.length rest := by
  induction foreign generalizing s with
  | nil => exact ⟨s, rfl, ⟨rfl, rfl, rfl, rfl, rfl, rfl⟩, hq, rfl, id, hwf, hrx⟩
  | cons x foreign ih =>
    rw [List.flatMap_cons, List.append_assoc] at hrx
    rw [List.length_cons] at hbound
    obtain ⟨hx, hforeign⟩ := List.forall_mem_cons.1 hforeign
    obtain ⟨t, ht, hloop⟩ := runs_skip hquiet hq hwf hrx hx fun m hm => by have := hbound m hm; omega
    have hinputs := State.same_of_still hloop.kept State.inputs
    have hparams := State.same_of_still hloop.kept State.params
    obtain ⟨u, hu, hrest⟩ := ih (hinputs.trans hquiet) hloop.seq hloop.wf hloop.rx
      (fun y hy => (hforeign y hy).of_still hloop.kept) fun m hm => by
        have := hbound m (hparams ▸ hm)
        rw [hloop.skips]
        omega
    refine ⟨u, ?_, hloop.toListened.trans hrest.toListened, hrest.seq, ?_, fun h => hrest.addrHit (hloop.addrHit h),
      hrest.wf, hrest.rx⟩
    · rw [List.length_cons, Nat.mul_succ, Nat.add_comm]
      exact (runs_add ht).trans hu
    · rw [hrest.skips, hloop.skips, List.length_cons]
      omega

end Loop

/-- Settles O44 (R176, R274): with no bound, one round of the loop after another. -/
theorem foreignFramesKeepTheLoop : Obligations.ForeignFramesKeepTheLoop := by
  unfold Obligations.ForeignFramesKeepTheLoop
  intro s fn p foreign rest hwf hquiet hop hq hmax hrx hforeign
  obtain ⟨t, ht, hloop⟩ := runs_skips (k := 3) hquiet hq hwf hrx
    (fun x hx => by
      obtain ⟨hframe, hwaits, haddr⟩ := hforeign x hx
      exact ⟨⟨hwaits, .inl ⟨⟨fn, p, hop⟩, hframe, rfl, rfl⟩⟩, haddr⟩)
    (fun m hm => by rw [hmax] at hm; cases hm)
  have hkept := hloop.kept
  exact ⟨t, ht, hloop.seq, State.same_of_still hkept State.op, State.same_of_still hkept State.busy, hloop.skips, hloop.rx,
    State.same_of_still hkept State.answers, State.same_of_still hkept State.mid⟩

/-! ### A whole exchange -/

/-- The state with the answer `f` in hand at the step `q`, `n` foreign frames later: the request is out, with the answers
`tx` of the transport left, and the events `rest` on the line. -/
structure State.Exchanged (s t : State) (q : Seq) (f : List Byte) (n : Nat) (tx : List TxAnswer) (rest : List RxEvent) :
    Prop where
  kept : t.still = s.still
  seq : t.seq = q
  skips : t.skips = s.skips + n
  addrHit : s.addrHit = false → t.addrHit = false
  rxlen : t.rxlen = len8 f
  bytes : t.rxBytes = f
  line : t.transport.line = s.transport.line ++ s.transport.outBuf ++ s.txBytes
  outBuf : t.transport.outBuf = []
  tx : t.transport.tx = tx
  rx : t.transport.rx = rest
  logReq : t.calls.count .logReq = s.calls.count .logReq + 1
  logResp : t.calls.count .logResp = s.calls.count .logResp

/-- From the request in the transmit buffer to the answer in hand: send, skip, receive. -/
theorem runs_exchange {s : State} {a b : TxAnswer} {tx : List TxAnswer} {k : Nat} {q : Seq} {foreign : List Timed}
    {good : Timed} {rest : List RxEvent} (hquiet : s.inputs = []) (hq : s.seq = .txPrep) (hwf : s.rxbuf.wf)
    (htx : s.transport.tx = a :: b :: tx) (ha : a.outcome = .done) (hb : b.outcome = .done)
    (htime : a.took + b.took ≤ s.params.timeout)
    (hrx : s.transport.rx = foreign.flatMap arrivals ++ arrivals good ++ rest) (hforeign : ∀ x ∈ foreign, s.Foreign k x)
    (hbound : ∀ m, s.params.maxSkips = some m → s.skips + foreign.length ≤ m) (hgood : s.Takes k q good) :
    ∃ t, runs (3 + ((k + 1) * foreign.length + k)) s = .next t ∧
      s.Exchanged t q (octets good) foreign.length tx rest := by
  obtain ⟨u, hu, hsent⟩ := runs_send hquiet hq htx ha hb htime
  have hparams := State.same_of_still hsent.kept State.params
  have hinputs := (State.same_of_still hsent.kept State.inputs).trans hquiet
  rw [List.append_assoc] at hrx
  obtain ⟨v, hv, hloop⟩ := runs_skips hinputs hsent.seq (hsent.rxbuf ▸ hwf) (hsent.rx.trans hrx)
    (fun x hx => (hforeign x hx).of_still hsent.kept) (by rwa [hparams, hsent.skips])
  obtain ⟨t, ht, hgot⟩ := runs_take ((State.same_of_still hloop.kept State.inputs).trans hinputs) hloop.seq hloop.wf
    hloop.rx ((hgood.of_still hsent.kept).of_still hloop.kept)
  refine ⟨t, (runs_add hu).trans ((runs_add hv).trans ht), ?_⟩
  exact {
    kept := hgot.kept.trans (hloop.kept.trans hsent.kept), seq := hgot.seq
    skips := hgot.skips.trans (hloop.skips.trans (congrArg (· + foreign.length) hsent.skips))
    addrHit := fun h => hgot.addrHit.trans (hloop.addrHit (hsent.addrHit.trans h)), rxlen := hgot.rxlen
    bytes := hgot.bytes, line := hgot.line.trans (hloop.line.trans hsent.line)
    outBuf := hgot.outBuf.trans (hloop.outBuf.trans hsent.outBuf), tx := hgot.tx.trans (hloop.tx.trans hsent.tx)
    rx := hgot.rx, logReq := hgot.logReq.trans (hloop.logReq.trans hsent.logReq)
    logResp := hgot.logResp.trans (hloop.logResp.trans hsent.logResp) }

/-! ### `EXEC` (R155 to R169) -/

theorem isFrame_frameBytes {fn : Byte} {f : FrameFields} (hwf : f.wellFormed = true) (hne : f.payload ≠ []) :
    isFrame (frameBytes fn f) := by
  have hlen : f.len.toNat = 10 + f.payload.length := of_decide_eq_true hwf
  have hpos := List.length_pos_iff.2 hne
  rw [isFrame, frameBytes_len, frameBytes_length]
  omega

theorem len8_frameBytes {fn : Byte} {f : FrameFields} (hwf : f.wellFormed = true) : len8 (frameBytes fn f) = f.len := by
  have hlen : f.len.toNat = 10 + f.payload.length := of_decide_eq_true hwf
  rw [len8, frameBytes_length, ← hlen, BitVec.ofNat_toNat, BitVec.setWidth_eq]

/-- `EXEC` from the host's write to the request in the transmit buffer. -/
theorem runs_execute {s : State} {fn : Byte} {p : List Byte} {w : Bool} (hfree : s.busy = false) (hbound : s.addrV = true)
    (hfits : p.length ≤ 245) (hinputs : s.inputs = [⟨0, w, .cmd ⟨0x13#8, executeArgs fn (.built p)⟩⟩]) :
    runs 2 s = .next ((s.issued (.execute fn p)).requested fn p) := by
  have hissue := step_issue hinputs hfree (decodeCmd_executeArgs fn (.built p))
  rw [exec_execute_free (s := { s with inputs := [] }) _ _ hfree,
    State.issueExecute_accepted (s := { s with inputs := [] }) _ hbound hfits] at hissue
  exact (runs_succ hissue).trans (runs_succ (step_request (s := s.issued (.execute fn p)) rfl rfl hfits (.inl rfl)))

/-- Settles O40 (R155 to R169, R271, R272): issue, build, exchange, and the checks on the answer. -/
theorem execExchange : Obligations.ExecExchange := by
  unfold Obligations.ExecExchange
  intro s fn p w a b tx foreign good f rest hinv hfree hbound hfits hinputs htx ha hb htime hrx hforeign hmax hwaits
    hgood hwf hne hown hother hright
  have hframe : isFrame (octets good) := hgood ▸ isFrame_frameBytes hwf hne
  obtain ⟨t, ht, hex⟩ := runs_exchange (s := (s.issued (.execute fn p)).requested fn p) (k := 3) (q := .rxFilt) rfl rfl
    hinv.rxbuf htx ha hb htime hrx
    (fun x hx => by
      obtain ⟨hx, hxwaits, haddr⟩ := hforeign x hx
      exact ⟨⟨hxwaits, .inl ⟨⟨fn, p, rfl⟩, hx, rfl, rfl⟩⟩, haddr⟩)
    (fun m hm => by
      have := hmax m hm
      show 0 + _ ≤ m
      omega)
    ⟨hwaits, .inl ⟨⟨fn, p, rfl⟩, hframe, rfl, rfl⟩⟩
  have hkept := hex.kept
  have hsent := State.requested_txBytes (s := s.issued (.execute fn p)) (fn := fn) hinv.txbuf hfits
  have hquiet := State.same_of_still hkept State.inputs
  have hop := State.same_of_still hkept State.op
  have haddr := State.same_of_still hkept State.addr
  have hreqfn := State.same_of_still hkept State.reqfn
  have hbytes := hex.bytes.trans hgood
  have hchecks := runs_to_chkFn (s := t) hquiet hop hbytes hex.seq (hown.trans haddr.symm) hright hother
  have hmatch := step_match (s := t.checked fn f .chkFn) hquiet hop hbytes rfl hreqfn.symm
  have hruns := (runs_add (runs_execute hfree hbound hfits hinputs)).trans ((runs_add ht).trans
    ((runs_add hchecks).trans (runs_succ (n := 0) hmatch)))
  have hcount : 12 + 4 * foreign.length = 2 + (3 + ((3 + 1) * foreign.length + 3) + (3 + (0 + 1))) := by omega
  refine ⟨_, (congrArg (runs · s) hcount).trans hruns, ?_⟩
  have hanswers : t.answers = s.answers := State.same_of_still hkept State.answers
  have hline : t.transport.line = s.transport.line ++ s.transport.outBuf ++ requestFrame s.addr fn p (nextMid s.mid) :=
    hex.line.trans (congrArg _ hsent)
  have hskips : t.skips = foreign.length := hex.skips.trans (Nat.zero_add _)
  have hrxlen : t.rxlen = f.len := by rw [hex.rxlen, hgood, len8_frameBytes hwf]
  refine ⟨congrArg _ hanswers, (Transport.logResp_line _).trans hline, (Transport.logResp_outBuf _).trans hex.outBuf,
    (Transport.logResp_rx _).trans hex.rx, (Transport.logResp_tx _).trans hex.tx, haddr,
    (State.same_of_still hkept State.addrV).trans hbound, State.same_of_still hkept State.mid, hreqfn,
    State.same_of_still hkept State.txlen, hrxlen, hskips, rfl, rfl, rfl, rfl, rfl, rfl, rfl,
    State.same_of_still hkept State.isErr, rfl, rfl, rfl, rfl, rfl, rfl, rfl, rfl,
    State.same_of_still hkept State.errcode, ?_, ?_⟩
  · exact (List.count_cons_of_ne (by decide)).trans hex.logReq
  · exact List.count_cons_self.trans (congrArg (· + 1) hex.logResp)

/-! ### The checksum check of a response (R180, R182) -/

/-- Behind `CRC.VERIFY` with the checksums `c` computed and `r` received, and the answer `ok` (R107). -/
def State.verified (s : State) (c r : Half) (ok : Bool) : State :=
  { s with crcRx := c, calccrc := c, recvcrc := r, crcOk := ok }

section Verify
variable {s : State} {f : List Byte} (hlen : 2 ≤ f.length)
include hlen

theorem State.verify_holds (h : checksumHolds f) : ∃ c r, s.verify f = (s.verified c r true, none) := by
  unfold checksumHolds at h
  rw [State.verify_eq hlen, if_pos h, decide_eq_true h]
  exact ⟨_, _, rfl⟩

theorem State.verify_fails (h : ¬ checksumHolds f) :
    ∃ c r, s.verify f = (s.verified c r false, some (.checksum c r)) := by
  unfold checksumHolds at h
  rw [State.verify_eq hlen, if_neg h, decide_eq_false h]
  exact ⟨_, _, rfl⟩

theorem checkDiscover_holds (h : checksumHolds f) :
    ∃ c r, checkDiscover f s = (s.verified c r true).endDiscover (be32At f s.params.discAddrOff) := by
  obtain ⟨c, r, hverify⟩ := State.verify_holds (s := s) hlen h
  exact ⟨c, r, by simp only [checkDiscover, hverify]⟩

theorem checkDiscover_fails (h : ¬ checksumHolds f) :
    ∃ c r, checkDiscover f s = (s.verified c r false).errorEnd (.checksum c r) := by
  obtain ⟨c, r, hverify⟩ := State.verify_fails (s := s) hlen h
  exact ⟨c, r, by simp only [checkDiscover, hverify, State.raise_eq]⟩

theorem checkModel_holds (h : checksumHolds f) : ∃ c r, checkModel f s = (s.verified c r true).endModel f := by
  obtain ⟨c, r, hverify⟩ := State.verify_holds (s := s) hlen h
  exact ⟨c, r, by simp only [checkModel, hverify]⟩

theorem checkModel_fails (h : ¬ checksumHolds f) :
    ∃ c r, checkModel f s = (s.verified c r false).errorEnd (.checksum c r) := by
  obtain ⟨c, r, hverify⟩ := State.verify_fails (s := s) hlen h
  exact ⟨c, r, by simp only [checkModel, hverify, State.raise_eq]⟩

end Verify

/-! ### `DISCOVER` (R180, R216) -/

/-- `DISCOVER` from the host's write to the request in the transmit buffer. -/
theorem runs_discover {s : State} {w : Bool} {x : Operands} (hfree : s.busy = false)
    (hinputs : s.inputs = [⟨0, w, .cmd ⟨0x14#8, x⟩⟩]) (hlen : s.params.discReq.length = 11) :
    runs 2 s = .next (s.issued .discover).searching := by
  have hissue := step_issue hinputs hfree (decodeCmd_of_row 0x14#5 rfl)
  rw [exec_discover_free (s := { s with inputs := [] }) hfree] at hissue
  exact (runs_succ hissue).trans (runs_succ (step_search (s := s.issued .discover) rfl rfl rfl hlen))

/-- Settles O41 (R180, R216): issue, build, exchange, and the checksum check. -/
theorem discoverExchange : Obligations.DiscoverExchange := by
  unfold Obligations.DiscoverExchange
  intro s w x a b tx r rest hinv hfree hinputs htx ha hb htime hrx hlen hwaits
  obtain ⟨hreq, hoffset, hfits, -⟩ := Params.ok_bounds hinv.params
  rw [← hlen] at hoffset hfits
  obtain ⟨t, ht, hex⟩ := runs_exchange (s := (s.issued .discover).searching) (k := 2) (q := .chkCrc) (foreign := []) rfl rfl
    hinv.rxbuf htx ha hb htime hrx (fun _ h => absurd h List.not_mem_nil) (fun m _ => Nat.zero_le m)
    ⟨hwaits, .inr ⟨.inl ⟨rfl, hlen.symm, rfl⟩, hfits, rfl⟩⟩
  have hkept := hex.kept
  have hsent := State.searching_txBytes (s := s.issued .discover) hinv.txbuf hreq
  have hstep := step_checkDiscover (State.same_of_still hkept State.inputs) (State.same_of_still hkept State.op) hex.seq
  have hruns := (runs_add (runs_discover hfree hinputs hreq)).trans ((runs_add ht).trans (runs_succ (n := 0) hstep))
  rw [hex.bytes] at hruns
  have hline : t.transport.line = s.transport.line ++ s.transport.outBuf ++ s.params.discReq :=
    hex.line.trans (congrArg _ hsent)
  have htwo : 2 ≤ (octets r).length := by rw [octets_length]; omega
  have hrxlen : t.rxlen.toNat = s.params.discRespLen := by
    rw [hex.rxlen, len8, octets_length, BitVec.toNat_ofNat, ← hlen]
    omega
  have haddr := State.same_of_still hkept State.addr
  have haddrV := State.same_of_still hkept State.addrV
  have hmid := State.same_of_still hkept State.mid
  have hanswers := State.same_of_still hkept State.answers
  have hreqfn := State.same_of_still hkept State.reqfn
  have hcrcTx := State.same_of_still hkept State.crcTx
  have hisErr := State.same_of_still hkept State.isErr
  have hfnOk := State.same_of_still hkept State.fnOk
  by_cases hsum : checksumHolds (octets r)
  · obtain ⟨c, d, hcheck⟩ := checkDiscover_holds (s := t) htwo hsum
    rw [hcheck, State.same_of_still hkept State.params] at hruns
    exact ⟨_, hruns, (Transport.logResp_line _).trans hline, (Transport.logResp_rx _).trans hex.rx, rfl, rfl, rfl, hreqfn,
      hcrcTx, hrxlen, hex.addrHit rfl, hisErr, hfnOk, fun _ => ⟨rfl, rfl, rfl, rfl, congrArg _ hanswers⟩,
      fun h => absurd hsum h⟩
  · obtain ⟨c, d, hcheck⟩ := checkDiscover_fails (s := t) htwo hsum
    rw [hcheck] at hruns
    exact ⟨_, hruns, hline, hex.rx, rfl, rfl, rfl, hreqfn, hcrcTx, hrxlen, hex.addrHit rfl, hisErr, hfnOk,
      fun h => absurd h hsum, fun _ => ⟨rfl, haddr, haddrV, hmid, congrArg _ hanswers⟩⟩

/-! ### `MODEL` (R182) -/

/-- Behind the address filter of `MODEL`, at the step `q`, with `v` in `RESPFN` and `k` free values drawn. -/
def State.ownResponse (s : State) (v : Byte) (k : Nat) (q : Seq) : State :=
  { s with addrHit := true, respfn := v, drawn := k, seq := q }

theorem State.endModel_eq (s : State) (r : List Byte) : s.endModel r =
    { s with
      calls := .logResp :: s.calls, transport := s.transport.logResp, kind := .ok, busy := false, done := true
      seq := .idle, op := none, answers := .ok (.bytes r) :: s.answers } := rfl

theorem filterModel_own {s : State} {r : List Byte} (h : be32At r 0 = s.addr) :
    ∃ v k, (4 < r.length → v = byteAt r 4) ∧ filterModel r s =
      if s.params.modelVerify then s.ownResponse v k .chkCrc else (s.ownResponse v k s.seq).endModel r := by
  obtain ⟨v, k, hshape, hfn⟩ := ({ s with addrHit := true } : State).setRespfn_shape r
  refine ⟨v, k, hfn, ?_⟩
  rw [filterModel, if_pos h, hshape]
  rfl

/-- `MODEL` from the host's write to the request in the transmit buffer. -/
theorem runs_model {s : State} {w : Bool} {x : Operands} (hfree : s.busy = false) (hbound : s.addrV = true)
    (hinputs : s.inputs = [⟨0, w, .cmd ⟨0x15#8, x⟩⟩]) (hfits : s.params.modelPayload.length ≤ 245) :
    runs 2 s = .next ((s.issued .model).requested s.params.modelFn s.params.modelPayload) := by
  have hissue := step_issue hinputs hfree (decodeCmd_of_row 0x15#5 rfl)
  rw [exec_model_free (s := { s with inputs := [] }) hfree, if_neg (by simp [hbound])] at hissue
  exact (runs_succ hissue).trans
    (runs_succ (step_request (s := s.issued .model) rfl rfl hfits (.inr ⟨rfl, rfl, rfl⟩)))

/-- Settles O42 (R182): issue, build, exchange, the address filter and, if it is asked for, the checksum check. -/
theorem modelExchange : Obligations.ModelExchange := by
  unfold Obligations.ModelExchange
  intro s w x a b tx foreign r rest hinv hfree hbound hinputs htx ha hb htime hrx hforeign hmax hlen hwaits hown
  obtain ⟨-, -, -, hpayload, hmin, hfits⟩ := Params.ok_bounds hinv.params
  have htakes : ∀ y : Timed, y.length = s.params.modelRespLen → waits y ≤ s.params.timeout →
      State.Takes ((s.issued .model).requested s.params.modelFn s.params.modelPayload) 2 .rxFilt y := fun y hy hw =>
    ⟨hw, .inr ⟨.inr ⟨rfl, hy.symm, rfl⟩, by omega, rfl⟩⟩
  obtain ⟨t, ht, hex⟩ := runs_exchange (s := (s.issued .model).requested s.params.modelFn s.params.modelPayload)
    rfl rfl hinv.rxbuf htx ha hb htime hrx
    (fun y hy => by
      obtain ⟨hy, hywaits, haddr⟩ := hforeign y hy
      exact ⟨htakes y hy hywaits, haddr⟩)
    (fun m hm => by
      have := hmax m hm
      show 0 + _ ≤ m
      omega)
    (htakes r hlen hwaits)
  have hkept := hex.kept
  have hsent := State.requested_txBytes (s := s.issued .model) (fn := s.params.modelFn) hinv.txbuf hpayload
  have hquiet := State.same_of_still hkept State.inputs
  have hop := State.same_of_still hkept State.op
  have haddr := State.same_of_still hkept State.addr
  have hparams := State.same_of_still hkept State.params
  have hanswers := State.same_of_still hkept State.answers
  have hreqfn := State.same_of_still hkept State.reqfn
  have hmid := State.same_of_still hkept State.mid
  have hisErr := State.same_of_still hkept State.isErr
  have hfnOk := State.same_of_still hkept State.fnOk
  have hcrcOk := State.same_of_still hkept State.crcOk
  have hcrcRx := State.same_of_still hkept State.crcRx
  have hskips : t.skips = foreign.length := hex.skips.trans (Nat.zero_add _)
  have hline : t.transport.line = s.transport.line ++ s.transport.outBuf ++
      requestFrame s.addr s.params.modelFn s.params.modelPayload (nextMid s.mid) := hex.line.trans (congrArg _ hsent)
  have htwo : 2 ≤ (octets r).length := by rw [octets_length]; omega
  obtain ⟨v, k, hrespfn, hfilter⟩ := filterModel_own (s := t) (hown.trans haddr.symm)
  rw [octets_length] at hrespfn
  have hstep := step_filterModel hquiet hop hex.seq
  rw [hex.bytes, hfilter, hparams] at hstep
  have hruns := fun n => (runs_add (runs_model hfree hbound hinputs hpayload)).trans (runs_add (n := n) ht)
  cases hverify : s.params.modelVerify with
  | false =>
    have hend : step t = .next ((t.ownResponse v k t.seq).endModel (octets r)) :=
      hstep.trans (congrArg _ (if_neg (hverify.trans_ne Bool.false_ne_true)))
    simp only [State.endModel_eq, State.ownResponse] at hend
    have hcount : 8 + 3 * foreign.length = 2 + (3 + ((2 + 1) * foreign.length + 2) + 1) := by omega
    exact ⟨_, (congrArg (runs · s) hcount).trans ((hruns 1).trans (runs_succ hend)),
      (Transport.logResp_line _).trans hline, (Transport.logResp_rx _).trans hex.rx, hreqfn, hmid, haddr, hskips, rfl, rfl,
      rfl, rfl, hisErr, hfnOk, hrespfn, fun _ => ⟨hcrcOk, hcrcRx, congrArg _ hanswers⟩, nofun, nofun⟩
  | true =>
    have hown : step t = .next (t.ownResponse v k .chkCrc) := hstep.trans (congrArg _ (if_pos hverify))
    have hcheck := step_checkModel (s := t.ownResponse v k .chkCrc) hquiet hop rfl
    rw [show (t.ownResponse v k .chkCrc).rxBytes = octets r from hex.bytes] at hcheck
    have hcount : 9 + 3 * foreign.length = 2 + (3 + ((2 + 1) * foreign.length + 2) + 2) := by omega
    have hends := (congrArg (runs · s) hcount).trans
      ((hruns 2).trans ((runs_succ hown).trans (runs_succ (n := 0) hcheck)))
    by_cases hsum : checksumHolds (octets r)
    · obtain ⟨c, d, hmodel⟩ := checkModel_holds (s := t.ownResponse v k .chkCrc) htwo hsum
      rw [hmodel] at hends
      simp only [State.endModel_eq, State.verified, State.ownResponse] at hends
      exact ⟨_, hends, (Transport.logResp_line _).trans hline, (Transport.logResp_rx _).trans hex.rx, hreqfn, hmid, haddr,
        hskips, rfl, rfl, rfl, rfl, hisErr, hfnOk, hrespfn, nofun, fun _ _ => ⟨rfl, congrArg _ hanswers⟩,
        fun _ h => absurd hsum h⟩
    · obtain ⟨c, d, hmodel⟩ := checkModel_fails (s := t.ownResponse v k .chkCrc) htwo hsum
      rw [hmodel] at hends
      simp only [State.errorEnd, State.verified, State.ownResponse] at hends
      exact ⟨_, hends, hline, hex.rx, hreqfn, hmid, haddr, hskips, rfl, rfl, rfl, rfl, hisErr, hfnOk, hrespfn, nofun,
        fun _ h => absurd h hsum, fun _ _ => ⟨rfl, congrArg _ hanswers⟩⟩

end Sys2Proof.Machine
end
